-- ==== Sys2Proof/Word.lean ====
section
/-! DEFINITION. The types of the values of the block (spec/00_scope.md R10, R12; spec/10_state.md R20).
All values are unsigned (R12): nothing here is signed. -/

namespace Sys2Proof

/-- A byte of the bus register space (R60). -/
abbrev Byte := BitVec 8

/-- A bus register address, 3 bits, 0 to 7 (R60). -/
abbrev Addr := BitVec 3

/-- A 16-bit scalar: `off_time[c]`, `on_time[i]`, `ON_CMP`, `OFF_CMP`, a raw duty (R10 `CMP_W`, R98). -/
abbrev CmpWord := BitVec 16

/-- The frame counter, 15 bits (R10 `CNT_W`, R24). -/
abbrev Count := BitVec 15

/-- An operation word `OPW`, 16 bits (R91). -/
abbrev OpWord := BitVec 16

/-- A channel, "identity 0–3" (R10 `N_CH`, R16). -/
abbrev Channel := Fin 4

/-- The head index of an edge queue: "a model should make the type `0..4`" (R25, R26). -/
abbrev QueueHead := Fin 5

end Sys2Proof
end

