-- ==== Sys2Proof/Config.lean ====
section
/-! DEFINITION. The parameters of spec/00_scope.md R10 with the values this hardware takes. They are constants:
the spec makes variable channel counts and frame periods non-goals (R6, R11). No value of a defined operation is left
open by the spec, so there is no free value here. -/

namespace Sys2Proof.Config

/-- `FRAME_PERIOD` = 2^15 ticks (R10, R11, 92_eei_decisions.md D22). -/
def framePeriod : Nat := 32768

/-- `U` = `FRAME_PERIOD / 4` = 8192 ticks (R10, R11). -/
def unit : Nat := framePeriod / 4

/-- `RAW_MAX` = `U − 1` = 8191, the largest raw duty of the host contract (R10, 90_conflicts.md C5). -/
def rawMax : Nat := unit - 1

/-- `DEFAULT_RAW` = `U / 2` = 4096 = 0x1000, the raw duty of every channel after reset (R10, D6). -/
def defaultRaw : Nat := unit / 2

/-- `ON_SENTINEL` = `FRAME_PERIOD` = 0x8000, which the 15-bit counter never equals (R10, D11). -/
def onSentinel : Nat := framePeriod

/-- The values of the parameter `CLAMP_MODE` (R147, D5). -/
inductive ClampMode where
  /-- the raw value is committed as it is -/
  | trust
  /-- `raw' = min(raw, RAW_MAX)` is committed and mirrored -/
  | clamp
  deriving DecidableEq, Repr

/-- `CLAMP_MODE` = `trust`, the value this hardware takes (R10, R147, D5). -/
def clampMode : ClampMode := .trust

/-- The values of the parameter `UPDATE_ATOMICITY` (R248, D15). -/
inductive UpdateAtomicity where
  /-- `POLL` is one operation -/
  | atomic
  /-- `POLL` is the seven phases of R248 (Machine/Phased.lean; not normative) -/
  | phased
  deriving DecidableEq, Repr

/-- `UPDATE_ATOMICITY` = `atomic`, the value this hardware takes (R10, R140, D15). -/
def updateAtomicity : UpdateAtomicity := .atomic

end Sys2Proof.Config
end

