-- ==== Sys2Proof/Machine/Operands.lean ====
section
/-! DEFINITION. The operand forms of the operations: byte addresses and slots (spec/20_memory.md R61, R63), the 16-bit
raw duty and its bytes (spec/30_encoding.md R98), the bias (R99, spec/41_update_protocol.md R142), the hard-wired table
`on_time` (spec/10_state.md R22), and the arithmetic of the queue heads (spec/42_frame_scheduler.md R172). -/

namespace Sys2Proof.Machine

/-- The channel of an address, `a[2:1]` (R61, R93). -/
def channelOf (a : Addr) : Channel := (a.extractLsb' 1 2).toFin

/-- Bit 0 of an address: false for a high byte, true for a low byte (R61). -/
def isLow (a : Addr) : Bool := a.getLsbD 0

/-- Address `2c`, the high byte of channel `c` (R61). -/
def highAddr (c : Channel) : Addr := BitVec.ofNat 3 (2 * c.val)

/-- Address `2c+1`, the low byte of channel `c` (R61). -/
def lowAddr (c : Channel) : Addr := BitVec.ofNat 3 (2 * c.val + 1)

/-- `{hi, lo}` of two bytes (R12, R63). -/
def join (hi lo : Byte) : CmpWord := hi ++ lo

/-- `v[15:8]` (R98). -/
def hiByte (v : CmpWord) : Byte := v.extractLsb' 8 8

/-- `v[7:0]` (R98). -/
def loByte (v : CmpWord) : Byte := v.extractLsb' 0 8

/-- The bias `c·U` (R99, R142). -/
def bias (c : Channel) : CmpWord := BitVec.ofNat 16 (c.val * Config.unit)

/-- The committed value `(raw + c·U) mod 2^16` (R142, D4). -/
def biased (c : Channel) (raw : CmpWord) : CmpWord := raw + bias c

/-- The raw value the commit takes: as it is under `trust`, `min(raw, RAW_MAX)` under `clamp` (R147). -/
def admitRaw (m : Config.ClampMode) (raw : CmpWord) : CmpWord :=
  match m with
  | .trust => raw
  | .clamp => BitVec.ofNat 16 (min raw.toNat Config.rawMax)

/-- The hard-wired table `on_time[0..4]`: 0, U, 2U, 3U and the sentinel `FRAME_PERIOD` (R22). -/
def onTime (i : QueueHead) : CmpWord :=
  match i with
  | 0 => 0
  | 1 => BitVec.ofNat 16 Config.unit
  | 2 => BitVec.ofNat 16 (2 * Config.unit)
  | 3 => BitVec.ofNat 16 (3 * Config.unit)
  | 4 => BitVec.ofNat 16 Config.onSentinel

/-- The channel at the head of a queue, none when the queue is empty (the test `≤ 3` of R163, R164). -/
def headChannel (i : QueueHead) : Option Channel := if h : i.val < 4 then some ⟨i.val, h⟩ else none

/-- `min(i + 1, 4)`: a queue head advances with saturation at 4 (R166, R172). -/
def advance (i : QueueHead) : QueueHead := ⟨min (i.val + 1) 4, by omega⟩

/-- `i mod 4`: 4 goes to 0, 0..3 stay (R164, R172). -/
def wrapHead (i : QueueHead) : Channel := ⟨i.val % 4, Nat.mod_lt _ (by decide)⟩

/-- `zext_16(CNT')` (R160). -/
def zext16 (t : Count) : CmpWord := t.setWidth 16

/-- `(CNT + 1) mod FRAME_PERIOD` (R160, R172): `FRAME_PERIOD` is 2^15 and the counter has 15 bits. -/
def nextCount (t : Count) : Count := BitVec.ofNat 15 ((t.toNat + 1) % Config.framePeriod)

end Sys2Proof.Machine
end

