-- ==== Sys2Proof/Syntax.lean ====
section
/-! DEFINITION. The nine operations (spec/00_scope.md R7, spec/30_encoding.md R92), one constructor for each row of
spec/opcode_table.json, and the agents that issue them (R8). -/

namespace Sys2Proof

/-- An operation of the block. `a` is a bus register address, `b` a data byte (R91, R93). -/
inductive Instr where
  /-- `TICK` (R160) -/
  | tick
  /-- `WR.H a, b`, `a` even (R120) -/
  | wrH (a : Addr) (b : Byte)
  /-- `WR.L a, b`, `a` odd (R121) -/
  | wrL (a : Addr) (b : Byte)
  /-- `RD a` (R122) -/
  | rd (a : Addr)
  /-- `POLL` (R140) -/
  | poll
  /-- `EVT.FS`, injected (R162, R173) -/
  | evtFs
  /-- `EVT.ON`, injected (R163, R173) -/
  | evtOn
  /-- `EVT.OFF`, injected (R164, R173) -/
  | evtOff
  /-- `RESET` (R240) -/
  | reset
  deriving DecidableEq, Repr

/-- The four agents (R8). -/
inductive Agent where
  /-- the bus transport, acting for the bus master -/
  | bus
  /-- the Update Protocol -/
  | upd
  /-- the Frame Clock -/
  | clk
  /-- power-on or a test bench -/
  | env
  deriving DecidableEq, Repr

/-- The agent that issues an operation (the table of R8). -/
def Instr.agent : Instr → Agent
  | .tick => .clk
  | .wrH _ _ => .bus
  | .wrL _ _ => .bus
  | .rd _ => .bus
  | .poll => .upd
  | .evtFs => .env
  | .evtOn => .env
  | .evtOff => .env
  | .reset => .env

/-- The mnemonic of an operation, as the table of R92 spells it. -/
def Instr.mnemonic : Instr → String
  | .tick => "TICK"
  | .wrH _ _ => "WR.H"
  | .wrL _ _ => "WR.L"
  | .rd _ => "RD"
  | .poll => "POLL"
  | .evtFs => "EVT.FS"
  | .evtOn => "EVT.ON"
  | .evtOff => "EVT.OFF"
  | .reset => "RESET"

/-- One line of a trace: "mnemonic then operands separated by commas, numbers in decimal" (R102). -/
def Instr.traceLine : Instr → String
  | .wrH a b => "WR.H " ++ toString a.toNat ++ ", " ++ toString b.toNat
  | .wrL a b => "WR.L " ++ toString a.toNat ++ ", " ++ toString b.toNat
  | .rd a => "RD " ++ toString a.toNat
  | .tick => "TICK"
  | .poll => "POLL"
  | .evtFs => "EVT.FS"
  | .evtOn => "EVT.ON"
  | .evtOff => "EVT.OFF"
  | .reset => "RESET"

end Sys2Proof
end

