-- ==== Sys2Proof/WellFormed.lean ====
section
/-! DEFINITION. The operand checks of the operations: `WR.H` takes an even address, `WR.L` an odd one
(spec/40_register_file.md R120, R121; spec/30_encoding.md R91). Every other operand admits every value of its field. -/

namespace Sys2Proof

/-- The operands are ones the operation admits. -/
def Instr.wellFormed : Instr → Bool
  | .wrH a _ => !a.getLsbD 0
  | .wrL a _ => a.getLsbD 0
  | .tick => true
  | .rd _ => true
  | .poll => true
  | .evtFs => true
  | .evtOn => true
  | .evtOff => true
  | .reset => true

end Sys2Proof
end

