-- ==== Sys2Proof/Decode.lean ====
section
/-! DEFINITION. The operation word (spec/30_encoding.md R91 to R95): its fields, the decoder, total on every 16-bit
word, the encoder, and the table of R92 as data. -/

namespace Sys2Proof

/-- Why a word is reserved (R94). The decoder names the first that holds, in this order (log 9). -/
inductive Reserved where
  /-- `Z`, bit 11, is 1 -/
  | zBit
  /-- `OP` is in 0x8 to 0xF -/
  | opCode
  /-- `A` is not 0 and the operation has no address -/
  | aField
  /-- `B` is not 0 and the operation has no data byte -/
  | bField
  deriving DecidableEq, Repr

/-- The `OP` field, bits `[15:12]` (R91). -/
def opField (w : OpWord) : BitVec 4 := w.extractLsb' 12 4

/-- The `Z` bit, bit 11 (R91). -/
def zField (w : OpWord) : Bool := w.getLsbD 11

/-- The `A` field, bits `[10:8]` (R91, R93). -/
def aField (w : OpWord) : Addr := w.extractLsb' 8 3

/-- The `B` field, bits `[7:0]` (R91, R93). -/
def bField (w : OpWord) : Byte := w.extractLsb' 0 8

/-- An operation without operands: `A` and `B` must be 0 (R91, R94). -/
def decodeBare (i : Instr) (w : OpWord) : Except Reserved Instr :=
  if aField w ≠ 0 then .error .aField
  else if bField w ≠ 0 then .error .bField
  else .ok i

/-- `OP = 1`: a bus write, told apart by `A[0]` (R92). -/
def decodeWrite (w : OpWord) : Instr :=
  if (aField w).getLsbD 0 then .wrL (aField w) (bField w) else .wrH (aField w) (bField w)

/-- `OP = 2`: a bus read, `B` must be 0 (R92, R94). -/
def decodeRead (w : OpWord) : Except Reserved Instr :=
  if bField w ≠ 0 then .error .bField else .ok (.rd (aField w))

/-- The decode algorithm of R95, total on every 16-bit word. -/
def decode (w : OpWord) : Except Reserved Instr :=
  if zField w then .error .zBit
  else match (opField w).toNat with
    | 0 => decodeBare .tick w
    | 1 => .ok (decodeWrite w)
    | 2 => decodeRead w
    | 3 => decodeBare .poll w
    | 4 => decodeBare .evtFs w
    | 5 => decodeBare .evtOn w
    | 6 => decodeBare .evtOff w
    | 7 => decodeBare .reset w
    | _ => .error .opCode

/-- A word put together from its fields, `Z` = 0 (R91). -/
def opWord (op : BitVec 4) (a : Addr) (b : Byte) : OpWord := op ++ (0#1) ++ a ++ b

/-- The encoder of R95: "Encode is the inverse". -/
def encode : Instr → OpWord
  | .tick => opWord 0x0 0 0
  | .wrH a b => opWord 0x1 a b
  | .wrL a b => opWord 0x1 a b
  | .rd a => opWord 0x2 a 0
  | .poll => opWord 0x3 0 0
  | .evtFs => opWord 0x4 0 0
  | .evtOn => opWord 0x5 0 0
  | .evtOff => opWord 0x6 0 0
  | .reset => opWord 0x7 0 0

/-- A row of the table of R92: "A word `w` spells the operation of a row exactly when `w & mask = match`." -/
structure OpRow where
  mnemonic : String
  pattern : OpWord
  mask : OpWord
  deriving DecidableEq, Repr

/-- The row spells the word (R92). -/
def OpRow.spells (r : OpRow) (w : OpWord) : Bool := w &&& r.mask == r.pattern

/-- The nine rows of R92 and of spec/opcode_table.json. -/
def opTable : List OpRow :=
  [ ⟨"TICK", 0x0000, 0xFFFF⟩, ⟨"WR.H", 0x1000, 0xF900⟩, ⟨"WR.L", 0x1100, 0xF900⟩, ⟨"RD", 0x2000, 0xF8FF⟩,
    ⟨"POLL", 0x3000, 0xFFFF⟩, ⟨"EVT.FS", 0x4000, 0xFFFF⟩, ⟨"EVT.ON", 0x5000, 0xFFFF⟩,
    ⟨"EVT.OFF", 0x6000, 0xFFFF⟩, ⟨"RESET", 0x7000, 0xFFFF⟩ ]

/-- The bits of an instruction, numbered from the least significant bit of its one 16-bit word, as a word: bits above
`nbits` are 0, and a number that needs more than 16 bits is no operation word (log 10). -/
def tableWord (nbits w : Nat) : Option OpWord :=
  if w % 2 ^ nbits < 2 ^ 16 then some (BitVec.ofNat 16 (w % 2 ^ nbits)) else none

/-- The operation the decoder reads from a word given as spec/opcode_table.json numbers its bits. -/
def decodeTableWord (nbits w : Nat) : Option Instr :=
  match tableWord nbits w with
  | none => none
  | some v =>
    match decode v with
    | .ok i => some i
    | .error _ => none

end Sys2Proof
end

