-- ==== Sys2Proof/Machine/State.lean ====
section
/-! DEFINITION. The state of the block (spec/10_state.md R20 to R31), what the outside observes of it
(spec/00_scope.md R9, spec/42_frame_scheduler.md R167), the agents' outstanding requests (R8), and the state right after
`RESET` (R36). -/

namespace Sys2Proof.Machine

/-- One bank of the bus register space: the bytes that differ from the reset contents, by rising address, with no
address twice (log 6). The reading and writing of it stand in Machine/Ops.lean. -/
abbrev Memory := List Host.Cell

/-- The two pin actions (R9, R13). -/
inductive EdgeKind where
  | rise
  | fall
  deriving DecidableEq, Repr

/-- An entry `(k, t, rise|fall, c)` of the edge trace (R167). -/
structure Edge where
  /-- `k`, the frame number -/
  frame : Int
  /-- `t`, `CNT` at the action -/
  time : Count
  kind : EdgeKind
  /-- `c` -/
  channel : Channel
  deriving DecidableEq, Repr

/-- What one `RD` returned to the bus master (R9(b), R13 `result v`). -/
structure ReadResult where
  addr : Addr
  value : Byte
  deriving DecidableEq, Repr

/-- The state. The first eleven fields are the mutable elements of R20 (the twelfth, `on_time`, is hard-wired:
`onTime` in Machine/Operands.lean, log 2). `trace`, `frame` and `reads` are observations of the spec and not hardware
state (R9, R33(f), log 3). `started` and `feed` are the model's own (log 5, log 1). -/
structure State where
  /-- `off_time[0..3]` (R21) -/
  offTime : Vector CmpWord 4
  /-- `CNT` (R24) -/
  cnt : Count
  /-- `onCounter` (R25) -/
  onCounter : QueueHead
  /-- `offCounter` (R26) -/
  offCounter : QueueHead
  /-- `ON_CMP` (R27) -/
  onCmp : CmpWord
  /-- `OFF_CMP` (R28) -/
  offCmp : CmpWord
  /-- `PIN[0..3]`, true = high (R29) -/
  pin : Vector Bool 4
  /-- `RX[0..7]` (R30) -/
  rx : Memory
  /-- `TX[0..7]` (R30) -/
  tx : Memory
  /-- `MARK_VALID` (R31) -/
  markValid : Bool
  /-- `MARK_SLOT` (R31) -/
  markSlot : Channel
  /-- the edge trace, oldest first (R9(c), R167) -/
  trace : List Edge
  /-- the frame number, −1 before the first `EVT.FS` (R167) -/
  frame : Int
  /-- the bytes `RD` returned, oldest first (R9(b)) -/
  reads : List ReadResult
  /-- a `RESET` has happened (R242) -/
  started : Bool
  /-- the operation words still to be issued, next first (R8, R102) -/
  feed : List OpWord
  deriving DecidableEq, Repr

/-- Why a step stops with a fault: never. "No operation can fault, trap or be aborted; no cause code exists" (R210);
"none at the hardware level (no fault bit exists)" (R223). So there is no constructor. -/
inductive Fault where
  deriving DecidableEq, Repr

/-- Why a request is given no meaning. -/
inductive Refusal where
  /-- raised by `exec` for an instruction that has no meaning yet (none here); safe -/
  | notModelled (mnemonic : String)
  /-- raised by `step` for a reserved operation word (R94, I6); safe -/
  | reservedWord (why : Reserved)
  /-- raised by `step` for any operation but `RESET` before the first `RESET` (R242, I8); safe -/
  | beforeReset
  /-- raised by `expandMessage` for a wire message without a data byte (R96: `n ≥ 1`); safe -/
  | messageTooShort
  /-- raised by `expandMessage` for a wire message that runs past address 7 (R62, R97, I7); safe -/
  | messagePastEnd
  /-- raised by `PortCycle.requests` for event code 3 at the injection port (R104); safe -/
  | reservedEventCode
  deriving DecidableEq, Repr

/-- Right after `RESET` (the table of R36). The banks list nothing: their unlisted bytes read as the reset contents.
Nothing has been traced (R240), no byte has been read and no request is outstanding (log 1, log 4). -/
def State.reset : State where
  offTime := #v[0x1000, 0x3000, 0x5000, 0x7000]
  cnt := 0x7FFF
  onCounter := 1
  offCounter := 0
  onCmp := 0x2000
  offCmp := 0x1000
  pin := #v[false, false, false, false]
  rx := []
  tx := []
  markValid := false
  markSlot := 0
  trace := []
  frame := -1
  reads := []
  started := true
  feed := []

end Sys2Proof.Machine
end

