-- ==== Sys2Proof/Machine/Ops.lean ====
section
/-! DEFINITION. The named operations over the banks and the registers, the handlers of the three events, and the one
shared operation that takes an event. Every meaning is written over these. -/

namespace Sys2Proof.Machine

/-! ### A bank of the bus register space (R60, R76) -/

/-- What an unlisted address reads as: the reset contents of R36, 0x10 at even and 0x00 at odd addresses. -/
def Memory.unlisted (a : Nat) : Byte := if a % 2 = 0 then 0x10 else 0x00

/-- The byte at an address. -/
def Memory.read : Memory → Nat → Byte
  | [], a => Memory.unlisted a
  | (k, v) :: rest, a => if k = a then v else Memory.read rest a

/-- The bank without an address. -/
def Memory.erase : Memory → Nat → Memory
  | [], _ => []
  | (k, v) :: rest, a => if k = a then Memory.erase rest a else (k, v) :: Memory.erase rest a

/-- The bank with a cell put in front of the first greater address. -/
def Memory.insert : Memory → Nat → Byte → Memory
  | [], a, b => [(a, b)]
  | (k, v) :: rest, a, b => if a < k then (a, b) :: (k, v) :: rest else (k, v) :: Memory.insert rest a b

/-- The bank after a byte is stored. Storing what an unlisted address reads as leaves the address unlisted. -/
def Memory.write (m : Memory) (a : Nat) (b : Byte) : Memory :=
  if b = Memory.unlisted a then m.erase a else (m.erase a).insert a b

/-- Addresses strictly rise, above a bound already passed. -/
def Memory.rising : Memory → Nat → Bool
  | [], _ => true
  | (k, _) :: rest, lo => decide (lo ≤ k) && Memory.rising rest (k + 1)

/-- The canonical form: addresses strictly rising and below 8 (R60), and no cell equal to what its address would read
as if it were unlisted. -/
def Memory.wf (m : Memory) : Bool :=
  Memory.rising m 0 && m.all (fun cell => decide (cell.1 < 8) && cell.2 != Memory.unlisted cell.1)

/-- A bank with a given byte at each of its eight addresses. -/
def Memory.ofBytes (f : Addr → Byte) : Memory :=
  (List.range 8).foldl (fun m n => m.write n (f (BitVec.ofNat 3 n))) []

/-! ### Reading and writing State -/

/-- `RX[a]`. -/
def State.readRx (s : State) (a : Addr) : Byte := s.rx.read a.toNat

/-- `TX[a]`: the primitive `RegRead(a)` (R13). -/
def State.readTx (s : State) (a : Addr) : Byte := s.tx.read a.toNat

/-- `RX[a] <- b`: the primitive `RegWrite(a, b)` (R13). -/
def State.writeRx (s : State) (a : Addr) (b : Byte) : State := { s with rx := s.rx.write a.toNat b }

/-- `TX[a] <- b`. -/
def State.writeTx (s : State) (a : Addr) (b : Byte) : State := { s with tx := s.tx.write a.toNat b }

/-- `off_time[c]`. -/
def State.offTimeOf (s : State) (c : Channel) : CmpWord := s.offTime[c]

/-- `off_time[c] <- v`, the indivisible commit (R143). -/
def State.commit (s : State) (c : Channel) (v : CmpWord) : State := { s with offTime := s.offTime.set c v }

/-- `CNT <- t`. -/
def State.setCnt (s : State) (t : Count) : State := { s with cnt := t }

/-- `onCounter <- i`. -/
def State.setOnCounter (s : State) (i : QueueHead) : State := { s with onCounter := i }

/-- `offCounter <- i`. -/
def State.setOffCounter (s : State) (i : QueueHead) : State := { s with offCounter := i }

/-- `ON_CMP <- v`. -/
def State.setOnCmp (s : State) (v : CmpWord) : State := { s with onCmp := v }

/-- `OFF_CMP <- v`. -/
def State.setOffCmp (s : State) (v : CmpWord) : State := { s with offCmp := v }

/-- `result v` of `RD`: the byte goes to the bus master (R13, R9(b)). -/
def State.logRead (s : State) (a : Addr) (v : Byte) : State := { s with reads := s.reads ++ [⟨a, v⟩] }

/-- The frame number counts the `EVT.FS` executions (R167, log 11). -/
def State.openFrame (s : State) : State := { s with frame := s.frame + 1 }

/-- `pending_raw[c] = {RX[2c], RX[2c+1]}`, a derived view (R32, R141). -/
def State.pendingRaw (s : State) (c : Channel) : CmpWord := join (s.readRx (highAddr c)) (s.readRx (lowAddr c))

/-- `accepted_raw[c] = {TX[2c], TX[2c+1]}`, a derived view (R32). -/
def State.acceptedRaw (s : State) (c : Channel) : CmpWord := join (s.readTx (highAddr c)) (s.readTx (lowAddr c))

/-! ### Pins (R13, R29) -/

/-- `PIN[c]`. -/
def State.pinOf (s : State) (c : Channel) : Bool := s.pin[c]

/-- `set_pin(c)`: `PIN[c] <- 1`, and append `rise(c)` at `CNT` to the edge trace (R13). -/
def State.setPin (s : State) (c : Channel) : State :=
  { s with pin := s.pin.set c true, trace := s.trace ++ [⟨s.frame, s.cnt, .rise, c⟩] }

/-- `clr_pin(c)`: `PIN[c] <- 0`, and append `fall(c)` at `CNT` to the edge trace (R13). -/
def State.clrPin (s : State) (c : Channel) : State :=
  { s with pin := s.pin.set c false, trace := s.trace ++ [⟨s.frame, s.cnt, .fall, c⟩] }

/-- `if i ≤ 3 then set_pin(i)` (R163). -/
def State.raiseHead (s : State) (i : QueueHead) : State :=
  match headChannel i with
  | some c => s.setPin c
  | none => s

/-- `if i ≤ 3 then clr_pin(i)` (R164). -/
def State.lowerHead (s : State) (i : QueueHead) : State :=
  match headChannel i with
  | some c => s.clrPin c
  | none => s

/-! ### Taking an event (R200, R205)

"Entering a handler saves nothing and changes no mode": there is no saved counter, no cause register and no vector
table. "There is no return operation; a handler ends when its last assignment is done" (R206). -/

/-- The three event sources (R200). -/
inductive Event where
  /-- frame boundary -/
  | fs
  /-- on-compare match -/
  | on
  /-- off-compare match -/
  | off
  deriving DecidableEq, Repr

/-- The 2-bit event codes (R104). -/
def Event.code : Event → BitVec 2
  | .fs => 0
  | .on => 1
  | .off => 2

/-- The event of a code; code 3 is reserved (R104). -/
def Event.ofCode (n : BitVec 2) : Option Event :=
  if n = 0 then some .fs else if n = 1 then some .on else if n = 2 then some .off else none

/-- The body of `EVT.FS` (R162). -/
def frameStart (s : State) : State :=
  (((s.openFrame.setPin 0).setOnCounter 1).setOffCounter 0).setOnCmp (onTime 1)

/-- The body of `EVT.ON` (R163). -/
def onEvent (s : State) : State :=
  ((s.raiseHead s.onCounter).setOnCounter (advance s.onCounter)).setOnCmp (onTime (advance s.onCounter))

/-- The body of `EVT.OFF` (R164, 90_conflicts.md C6): the head advances before the reload, and the index wraps. -/
def offEvent (s : State) : State :=
  ((s.lowerHead s.offCounter).setOffCounter (advance s.offCounter)).setOffCmp
    (s.offTimeOf (wrapHead (advance s.offCounter)))

/-- `do EVT.x`: taking an event runs its handler to completion (R13, R205, R206). -/
def takeEvent (e : Event) (s : State) : State :=
  match e with
  | .fs => frameStart s
  | .on => onEvent s
  | .off => offEvent s

/-! ### The agents' requests (R8, R242) -/

/-- The next operation word and the state without it, none when no agent requests anything. -/
def State.nextRequest (s : State) : Option (OpWord × State) :=
  match s.feed with
  | [] => none
  | w :: rest => some (w, { s with feed := rest })

/-- Before the first `RESET` only `RESET` has a meaning (R242). -/
def State.accepts (s : State) (i : Instr) : Bool := s.started || decide (i = .reset)

/-- The state with a word put in front of the outstanding requests. -/
def State.pushWord (s : State) (w : OpWord) : State := { s with feed := w :: s.feed }

/-- The state with operations added behind the outstanding requests. -/
def State.present (s : State) (l : List Instr) : State := { s with feed := s.feed ++ l.map encode }

/-- The condition before the first `RESET`: no `RESET` has happened and every other element is whatever it is
(R242, I8). -/
def State.beforeReset (s : State) : State := { s with started := false }

end Sys2Proof.Machine
end

