-- ==== Sys2Proof/Machine/Flags.lean ====
section
/-! DEFINITION. The completion marker, the block's only flag beside the pins (spec/10_state.md R29, R31), and the three
match conditions of a tick (spec/42_frame_scheduler.md R160, R161). -/

namespace Sys2Proof.Machine

/-- `MARK_VALID <- 1`, `MARK_SLOT <- c` (R121). -/
def State.setMark (s : State) (c : Channel) : State := { s with markValid := true, markSlot := c }

/-- `MARK_VALID <- 0`; `MARK_SLOT` is left as it was (R140, R145, D18). -/
def State.clearMark (s : State) : State := { s with markValid := false }

/-- `fs = (CNT' = 0)` (R160). -/
def fsRaised (t : Count) : Bool := decide (t = 0)

/-- `zext_16(CNT') = X_CMP`: equality only, no "greater than or equal" (R160, R172). -/
def cmpRaised (t : Count) (cmp : CmpWord) : Bool := decide (zext16 t = cmp)

/-- The events the new counter value raises, in the order `FS`, `ON`, `OFF`, against the compare registers as they
stand before any handler runs (R161, R204). -/
def raised (t : Count) (onCmp offCmp : CmpWord) : List Event :=
  (if fsRaised t then [Event.fs] else []) ++ (if cmpRaised t onCmp then [Event.on] else []) ++
    (if cmpRaised t offCmp then [Event.off] else [])

/-- The events the next `TICK` raises (R160, R200). -/
def State.raisedByTick (s : State) : List Event := raised (nextCount s.cnt) s.onCmp s.offCmp

end Sys2Proof.Machine
end

