-- ==== Sys2Proof/Machine/RegisterFile.lean ====
section
/-! DEFINITION. The Register File operations (spec/40_register_file.md): `WR.H`, `WR.L`, `RD`. -/

namespace Sys2Proof.Machine

/-- `WR.H a, b`: `RX[a] <- b` (R120). -/
def execWrH (a : Addr) (b : Byte) (s : State) : Host.Outcome State Fault Refusal := .next (s.writeRx a b)

/-- `WR.L a, b`: `RX[a] <- b`, then `MARK_VALID <- 1`, `MARK_SLOT <- a[2:1]`, whatever they held (R121). -/
def execWrL (a : Addr) (b : Byte) (s : State) : Host.Outcome State Fault Refusal :=
  .next ((s.writeRx a b).setMark (channelOf a))

/-- `RD a`: `result TX[a]`, no state change (R122). -/
def execRd (a : Addr) (s : State) : Host.Outcome State Fault Refusal := .next (s.logRead a (s.readTx a))

end Sys2Proof.Machine
end

