-- ==== Sys2Proof/Machine/Reset.lean ====
section
/-! DEFINITION. `RESET` (spec/70_reset_and_hazards.md R240). -/

namespace Sys2Proof.Machine

/-- The bytes of `DEFAULT_RAW` at every slot, in either bank (R240). -/
def defaultByte (a : Addr) : Byte :=
  if isLow a then loByte (BitVec.ofNat 16 Config.defaultRaw) else hiByte (BitVec.ofNat 16 Config.defaultRaw)

/-- `off_time[c] <- c·U + DEFAULT_RAW` (R240). -/
def defaultOffTime (c : Channel) : CmpWord := biased c (BitVec.ofNat 16 Config.defaultRaw)

/-- `RESET`: every mutable element to its reset value in one step, the edge trace emptied and the frame number back
at −1 (R240). The bus master keeps what it has read, and the requests outstanding are the agents', not the block's
(log 4, log 1). -/
def resetBlock (s : State) : State where
  offTime := Vector.ofFn defaultOffTime
  rx := Memory.ofBytes defaultByte
  tx := Memory.ofBytes defaultByte
  pin := Vector.replicate 4 false
  markValid := false
  markSlot := 0
  onCounter := 1
  offCounter := 0
  onCmp := onTime 1
  offCmp := defaultOffTime 0
  cnt := BitVec.ofNat 15 (Config.framePeriod - 1)
  trace := []
  frame := -1
  started := true
  reads := s.reads
  feed := s.feed

/-- `RESET` (R240). -/
def execReset (s : State) : Host.Outcome State Fault Refusal := .next (resetBlock s)

end Sys2Proof.Machine
end

