-- ==== Sys2Proof/Machine/Scheduler.lean ====
section
/-! DEFINITION. The Frame Scheduler (spec/42_frame_scheduler.md): `TICK` and the injected handlers. -/

namespace Sys2Proof.Machine

/-- The handlers of a list of events, one after another, each on the state the one before left (R161). -/
def takeEvents (es : List Event) (s : State) : State := es.foldl (fun t e => takeEvent e t) s

/-- `TICK`: advance `CNT`, then run the raised handlers (R160). -/
def tick (s : State) : State := takeEvents s.raisedByTick (s.setCnt (nextCount s.cnt))

/-- `TICK` (R160). -/
def execTick (s : State) : Host.Outcome State Fault Refusal := .next (tick s)

/-- `EVT.FS`, injected: the handler's body, `CNT` unchanged and no match test (R162, R173). -/
def execEvtFs (s : State) : Host.Outcome State Fault Refusal := .next (takeEvent .fs s)

/-- `EVT.ON`, injected (R163, R173). -/
def execEvtOn (s : State) : Host.Outcome State Fault Refusal := .next (takeEvent .on s)

/-- `EVT.OFF`, injected (R164, R173). -/
def execEvtOff (s : State) : Host.Outcome State Fault Refusal := .next (takeEvent .off s)

end Sys2Proof.Machine
end

