-- ==== Sys2Proof/Machine/Update.lean ====
section
/-! DEFINITION. The Duty-Cycle Update Protocol (spec/41_update_protocol.md): `POLL`. -/

namespace Sys2Proof.Machine

/-- The bytes of `RX` a commit of slot `c` mirrors: under `trust` the two raw bytes as they stand in `RX`, under
`clamp` those of the clamped value (R144, R147). -/
def State.admitted (s : State) (m : Config.ClampMode) (c : Channel) : CmpWord := admitRaw m (s.pendingRaw c)

/-- The mirror: slot `c`'s two bytes of `TX` (R144). -/
def State.mirror (s : State) (c : Channel) (raw : CmpWord) : State :=
  (s.writeTx (highAddr c) (hiByte raw)).writeTx (lowAddr c) (loByte raw)

/-- Commit, mirror, consume the marker, for slot `c` (R140). -/
def commitSlot (m : Config.ClampMode) (c : Channel) (s : State) : State :=
  ((s.commit c (biased c (s.admitted m c))).mirror c (s.admitted m c)).clearMark

/-- `POLL` for a value of `CLAMP_MODE`: if no slot is marked complete it does nothing (R140, R146, R147). -/
def pollWith (m : Config.ClampMode) (s : State) : State :=
  if s.markValid then commitSlot m s.markSlot s else s

/-- `POLL` with the `CLAMP_MODE` this hardware takes (R140). -/
def execPoll (s : State) : Host.Outcome State Fault Refusal := .next (pollWith Config.clampMode s)

end Sys2Proof.Machine
end

