-- ==== Sys2Proof/Machine/Dispatch.lean ====
section
/-! DEFINITION. One arm per operation: its meaning (spec/30_encoding.md R92, last column). -/

namespace Sys2Proof.Machine

def exec (i : Instr) (s : State) : Host.Outcome State Fault Refusal :=
  match i with
  | .tick => Sys2Proof.Machine.execTick s
  | .wrH a b => Sys2Proof.Machine.execWrH a b s
  | .wrL a b => Sys2Proof.Machine.execWrL a b s
  | .rd a => Sys2Proof.Machine.execRd a s
  | .poll => Sys2Proof.Machine.execPoll s
  | .evtFs => Sys2Proof.Machine.execEvtFs s
  | .evtOn => Sys2Proof.Machine.execEvtOn s
  | .evtOff => Sys2Proof.Machine.execEvtOff s
  | .reset => Sys2Proof.Machine.execReset s

end Sys2Proof.Machine
end

