-- ==== Sys2Proof/Machine/Step.lean ====
section
/-! DEFINITION. One step of the machine: the next requested operation word is decoded and its operation runs, whole
(spec/00_scope.md R7, R8; spec/20_memory.md R68). -/

namespace Sys2Proof.Machine

/-- One step. With no request outstanding nothing happens (R7, log 7). A reserved word is refused (R94). Before the
first `RESET` every other operation is refused (R242). -/
def step (s : State) : Host.Outcome State Fault Refusal :=
  match s.nextRequest with
  | none => .next s
  | some (w, t) =>
    match decode w with
    | .error why => .refused (.reservedWord why)
    | .ok i => if s.accepts i then exec i t else .refused .beforeReset

/-- The word put in front of the outstanding requests, so that the next step runs it (log 1, log 10). A number that is
no 16-bit word leaves the state as it is. -/
def State.withFetchWord (s : State) (nbits w : Nat) : State :=
  match tableWord nbits w with
  | some v => s.pushWord v
  | none => s

end Sys2Proof.Machine
end

