-- ==== Sys2Proof/Machine/Run.lean ====
section
/-! DEFINITION. A run of the block as a sequence of operations (spec/00_scope.md R7, R8; spec/20_memory.md R68), and the
pseudo-operations that stand for sequences (spec/30_encoding.md R103). -/

namespace Sys2Proof.Machine

/-- The operations of a list, one after another, each on the state the one before left (R68). -/
def runInstrs : List Instr → State → Host.Outcome State Fault Refusal
  | [], s => .next s
  | i :: rest, s =>
    match exec i s with
    | .next t => runInstrs rest t
    | .fault r => .fault r
    | .refused r => .refused r

/-- The next state of an outcome, if it is one. -/
def nextState : Host.Outcome State Fault Refusal → Option State
  | .next t => some t
  | .fault _ => none
  | .refused _ => none

/-! ### Pseudo-operations (R103) -/

/-- `WR a, b`: `WR.H` at an even, `WR.L` at an odd address. -/
def pseudoWr (a : Addr) (b : Byte) : Instr := if isLow a then .wrL a b else .wrH a b

/-- `SET c, v`. -/
def pseudoSet (c : Channel) (v : CmpWord) : List Instr :=
  [.wrH (highAddr c) (hiByte v), .wrL (lowAddr c) (loByte v)]

/-- `UPDATE c, v` = `SET c, v ; POLL`. -/
def pseudoUpdate (c : Channel) (v : CmpWord) : List Instr := pseudoSet c v ++ [.poll]

/-- `REFRESH v0, v1, v2, v3`. -/
def pseudoRefresh (v0 v1 v2 v3 : CmpWord) : List Instr :=
  pseudoSet 0 v0 ++ pseudoSet 1 v1 ++ pseudoSet 2 v2 ++ pseudoSet 3 v3

/-- `GET c`: the two reads; the value is the join of what they return. -/
def pseudoGet (c : Channel) : List Instr := [.rd (highAddr c), .rd (lowAddr c)]

/-- `TICK n`. -/
def pseudoTicks (n : Nat) : List Instr := List.replicate n .tick

/-- `FRAME` = `TICK 32768`. -/
def pseudoFrame : List Instr := pseudoTicks Config.framePeriod

/-- `TICKTO t`: as many ticks as bring `CNT` from where it is to `t`. -/
def pseudoTickTo (s : State) (t : Count) : List Instr := pseudoTicks (t - s.cnt).toNat

end Sys2Proof.Machine
end

