-- ==== Sys2Proof/Machine/Phased.lean ====
section
/-! DEFINITION. The variant `UPDATE_ATOMICITY = phased` (spec/70_reset_and_hazards.md R248): `POLL` as seven phases with
three latches. It is not normative and this hardware does not take it (`Config.updateAtomicity`, log 12); `exec` and `step`
do not use this file. -/

namespace Sys2Proof.Machine

/-- The next phase of a phased `POLL` (R248). -/
inductive PollPhase where
  /-- `POLL.1`: test the marker, latch the slot -/
  | examine
  /-- `POLL.2`: latch the high byte -/
  | latchHigh
  /-- `POLL.3`: latch the low byte -/
  | latchLow
  /-- `POLL.4`: the critical section -/
  | commit
  /-- `POLL.5`: mirror the high byte -/
  | mirrorHigh
  /-- `POLL.6`: mirror the low byte -/
  | mirrorLow
  /-- `POLL.7`: clear the marker -/
  | consume
  deriving DecidableEq, Repr

/-- The block with the latches `L_c`, `L_hi`, `L_lo` of a phased `POLL` (R248). The spec gives the latches no reset value
and none is fixed here (log 17). -/
structure Phased where
  main : State
  phase : PollPhase
  slot : Channel
  hi : Byte
  lo : Byte
  deriving DecidableEq, Repr

/-- One phase of the `UPD` agent (R248). -/
def Phased.advance (p : Phased) : Phased :=
  match p.phase with
  | .examine => if p.main.markValid then { p with slot := p.main.markSlot, phase := .latchHigh } else p
  | .latchHigh => { p with hi := p.main.readRx (highAddr p.slot), phase := .latchLow }
  | .latchLow => { p with lo := p.main.readRx (lowAddr p.slot), phase := .commit }
  | .commit => { p with main := p.main.commit p.slot (biased p.slot (join p.hi p.lo)), phase := .mirrorHigh }
  | .mirrorHigh => { p with main := p.main.writeTx (highAddr p.slot) p.hi, phase := .mirrorLow }
  | .mirrorLow => { p with main := p.main.writeTx (lowAddr p.slot) p.lo, phase := .consume }
  | .consume => { p with main := p.main.clearMark, phase := .examine }

/-- `n` phases with no other agent's operation between them. -/
def Phased.run : Nat → Phased → Phased
  | 0, p => p
  | n + 1, p => Phased.run n p.advance

/-- Another agent's operation between two phases: "any other agents' operations allowed between them" (R248), so none of
`UPD`'s own. DESIGN CHOICE (log 17): a `RESET` between two phases resets the block and leaves the phase and the latches as
they are, so the phases that follow go on with the bytes latched before it. -/
def Phased.other (i : Instr) (p : Phased) : Option Phased :=
  if i.agent = .upd then none
  else match exec i p.main with
    | .next t => some { p with main := t }
    | .fault _ => none
    | .refused _ => none

end Sys2Proof.Machine
end

