-- ==== Sys2Proof/Machine/Ports.lean ====
section
/-! DEFINITION. The interfaces of the block (spec/10_state.md R35) as a clock cycle that presents requests, and the
orders in which they may take effect (spec/92_eei_decisions.md D26). -/

namespace Sys2Proof.Machine

/-- What the input ports present in one clock cycle (R35). -/
structure PortCycle where
  /-- `wr_en` with `wr_addr`, `wr_data` -/
  wr : Option (Addr × Byte)
  /-- `rd_addr`, when the master reads -/
  rd : Option Addr
  /-- `poll` -/
  poll : Bool
  /-- `tick` -/
  tick : Bool
  /-- `evt_en` with `evt` -/
  evt : Option (BitVec 2)
  /-- `rst` -/
  rst : Bool
  deriving DecidableEq, Repr

/-- The operation that injects an event (R35, R173). -/
def Event.injected : Event → Instr
  | .fs => .evtFs
  | .on => .evtOn
  | .off => .evtOff

/-- `rd_data = TX[rd_addr]`, combinational (R35). -/
def State.rdData (s : State) (a : Addr) : Byte := s.readTx a

/-- The operations a cycle presents beside `rst`; event code 3 is reserved (R104). -/
def PortCycle.requests (p : PortCycle) : Except Refusal (List Instr) :=
  let others :=
    (match p.wr with | some (a, b) => [pseudoWr a b] | none => []) ++
    (match p.rd with | some a => [Instr.rd a] | none => []) ++
    (if p.poll then [Instr.poll] else []) ++ (if p.tick then [Instr.tick] else [])
  match p.evt with
  | none => .ok others
  | some n =>
    match Event.ofCode n with
    | some e => .ok (others ++ [e.injected])
    | none => .error .reservedEventCode

/-- The sequences of operations a cycle may amount to: `rst` overrides everything presented with it, and otherwise the
requests happen "one after the other in some order" (R35, D26). Event code 3 presented with `rst` is overridden too
(log 14). -/
def PortCycle.Admits (p : PortCycle) (l : List Instr) : Prop :=
  if p.rst then l = [.reset] else ∃ l', p.requests = .ok l' ∧ l.Perm l'

end Sys2Proof.Machine
end

