-- ==== Sys2Proof/Machine/Wire.lean ====
section
/-! DEFINITION. The bus write message (spec/30_encoding.md R96, R97) and its expansion into operations. The framing of
the message on the physical bus belongs to the excluded transport (R5). -/

namespace Sys2Proof.Machine

/-- The writes of the data bytes to consecutive addresses (R97, D28). -/
def writesFrom : Nat → List Byte → List Instr
  | _, [] => []
  | a, b :: rest => pseudoWr (BitVec.ofNat 3 a) b :: writesFrom (a + 1) rest

/-- The operations of a message `m[0], m[1], …, m[n]`: `n ≥ 1` (R96), `m[0] ≤ 7` and `m[0] + n − 1 ≤ 7` (R97). A message
that breaks either bound is refused (R62). -/
def expandMessage : List Byte → Except Refusal (List Instr)
  | [] => .error .messageTooShort
  | [_] => .error .messageTooShort
  | first :: data =>
    if first.toNat ≤ 7 ∧ first.toNat + data.length - 1 ≤ 7 then .ok (writesFrom first.toNat data)
    else .error .messagePastEnd

/-- The message that updates one channel, `(2c, v[15:8], v[7:0])` (R96). -/
def updateMessage (c : Channel) (v : CmpWord) : List Byte :=
  [BitVec.ofNat 8 (2 * c.val), hiByte v, loByte v]

/-- The full-refresh message: all eight bytes from address 0 (R96). -/
def refreshMessage (v0 v1 v2 v3 : CmpWord) : List Byte :=
  [0, hiByte v0, loByte v0, hiByte v1, loByte v1, hiByte v2, loByte v2, hiByte v3, loByte v3]

end Sys2Proof.Machine
end

