-- ==== Sys2Proof/Safety.lean ====
section
/-! DEFINITION. The ghost predicates of the spec, in the terms the claims use: the windows (spec/10_state.md R37, R38),
the invariants of the rules (spec/41_update_protocol.md R149, spec/42_frame_scheduler.md R169), the host contract
(spec/30_encoding.md R100) and the error taxonomy (spec/60_exceptions.md R212 to R215). None is hardware state. -/

namespace Sys2Proof.Machine

/-! ### Windows (R37, R38) -/

/-- `c·U ≤ v ≤ c·U + RAW_MAX`. -/
abbrev inWindow (c : Channel) (v : CmpWord) : Prop :=
  c.val * Config.unit ≤ v.toNat ∧ v.toNat ≤ c.val * Config.unit + Config.rawMax

/-- `WINDOW_OK`: every committed off-time lies in its channel's window (R37). -/
abbrev windowOk (s : State) : Prop := ∀ c : Channel, inWindow c (s.offTimeOf c)

/-- `QUEUE_OK`: the off-compare holds an in-window off-time of the channel that falls next (R38). -/
abbrev queueOk (s : State) : Prop := inWindow (wrapHead s.offCounter) s.offCmp

/-! ### Invariants that need no contract -/

/-- `off_time[c] = ({TX[2c], TX[2c+1]} + c·U) mod 2^16` for every `c` (R149, R32). -/
abbrev readbackOk (s : State) : Prop := ∀ c : Channel, s.offTimeOf c = biased c (s.acceptedRaw c)

/-- `ON_CMP` holds the time of the head of the next-on queue, and the head is never 0 (R25, R27, R167). -/
abbrev onQueueOk (s : State) : Prop := s.onCounter ≠ 0 ∧ s.onCmp = onTime s.onCounter

/-- Both banks are in canonical form. -/
abbrev banksOk (s : State) : Prop := s.rx.wf = true ∧ s.tx.wf = true

/-- No traced action belongs to a frame that has not begun (R167). -/
abbrev traceOk (s : State) : Prop := ∀ e ∈ s.trace, e.frame ≤ s.frame

/-- What every operation keeps, injected events and out-of-contract values included. -/
abbrev blockInv (s : State) : Prop := banksOk s ∧ readbackOk s ∧ onQueueOk s ∧ traceOk s

/-! ### The shape of a frame (R169) -/

/-- The channel in whose window a counter value lies. -/
def windowChannel (t : Count) : Channel := ⟨t.toNat / Config.unit % 4, Nat.mod_lt _ (by decide)⟩

/-- "a state *at a boundary*": `CNT = FRAME_PERIOD − 1`, `ON_CMP ≠ 0`, `offCounter ∈ {0, 4}`, `OFF_CMP ≤ RAW_MAX` and all
four pins low (R169). -/
abbrev atBoundary (s : State) : Prop :=
  s.cnt.toNat = Config.framePeriod - 1 ∧ s.onCmp ≠ 0 ∧ (s.offCounter = 0 ∨ s.offCounter = 4) ∧
    s.offCmp.toNat ≤ Config.rawMax ∧ ∀ c : Channel, s.pinOf c = false

/-- A state inside a frame, in contract: the on queue has passed the window's channel, and either that channel is the
only one high and its fall is still ahead, or it has fallen and all pins are low (R169, R171). -/
abbrev inFrame (s : State) : Prop :=
  s.onCounter.val = (windowChannel s.cnt).val + 1 ∧ s.onCmp = onTime s.onCounter ∧ queueOk s ∧
    ((s.offCounter.val = (windowChannel s.cnt).val ∧ s.cnt.toNat < s.offCmp.toNat ∧
        ∀ c : Channel, s.pinOf c = decide (c = windowChannel s.cnt)) ∨
      (s.offCounter.val = (windowChannel s.cnt).val + 1 ∧ ∀ c : Channel, s.pinOf c = false))

/-- What every operation of the free-running block keeps under the host contract (R169). -/
abbrev frameInv (s : State) : Prop := windowOk s ∧ (atBoundary s ∨ inFrame s)

/-- The eight edge actions of frame `k`, with channel `c` falling at `w c` (R168, R169(a)). -/
def frameEdges (k : Int) (w : Channel → Count) : List Edge :=
  (List.finRange 4).flatMap fun c =>
    [⟨k, BitVec.ofNat 15 (c.val * Config.unit), .rise, c⟩, ⟨k, w c, .fall, c⟩]

/-- A row of the table of R176. -/
structure FrameRow where
  /-- the `TICK`s since `RESET` -/
  ticks : Nat
  cnt : Count
  pin : Vector Bool 4
  onCounter : QueueHead
  offCounter : QueueHead
  onCmp : CmpWord
  offCmp : CmpWord
  deriving DecidableEq, Repr

/-- "One default frame, tick by tick, from `RESET`": the ten rows after the reset row (R176). -/
def defaultFrameRows : List FrameRow :=
  [ ⟨1, 0, #v[true, false, false, false], 1, 0, 8192, 4096⟩,
    ⟨4097, 4096, #v[false, false, false, false], 1, 1, 8192, 12288⟩,
    ⟨8193, 8192, #v[false, true, false, false], 2, 1, 16384, 12288⟩,
    ⟨12289, 12288, #v[false, false, false, false], 2, 2, 16384, 20480⟩,
    ⟨16385, 16384, #v[false, false, true, false], 3, 2, 24576, 20480⟩,
    ⟨20481, 20480, #v[false, false, false, false], 3, 3, 24576, 28672⟩,
    ⟨24577, 24576, #v[false, false, false, true], 4, 3, 32768, 28672⟩,
    ⟨28673, 28672, #v[false, false, false, false], 4, 4, 32768, 4096⟩,
    ⟨32768, 32767, #v[false, false, false, false], 4, 4, 32768, 4096⟩,
    ⟨32769, 0, #v[true, false, false, false], 1, 0, 8192, 4096⟩ ]

/-- The counter value the next `TICK` will show is that of channel `c`'s fall. -/
abbrev aboutToFall (s : State) (c : Channel) : Prop :=
  zext16 (nextCount s.cnt) = s.offCmp ∧ wrapHead s.offCounter = c

/-! ### The host contract (R100) and the free-running block (R173) -/

/-- An operation of "the step relation over which the theorems of rules R168 to R170 hold": no reset, no injected
event (R173). -/
def freeRunning : Instr → Bool
  | .tick => true
  | .wrH _ _ => true
  | .wrL _ _ => true
  | .rd _ => true
  | .poll => true
  | .evtFs => false
  | .evtOn => false
  | .evtOff => false
  | .reset => false

/-- `OUT_OF_WINDOW`: a `POLL` that commits a decoded `raw > RAW_MAX` (R214). -/
abbrev outOfWindow (i : Instr) (s : State) : Prop :=
  i = .poll ∧ s.markValid = true ∧ Config.rawMax < (s.pendingRaw s.markSlot).toNat

/-- An operation of the free-running block that does not break the range contract. -/
abbrev inContract (i : Instr) (s : State) : Prop := freeRunning i = true ∧ ¬ outOfWindow i s

/-- Every operation of a run is in contract in the state it meets. -/
def inContractRun : List Instr → State → Prop
  | [], _ => True
  | i :: rest, s => inContract i s ∧ ∀ t, exec i s = .next t → inContractRun rest t

/-- The next requested operation, if there is one, is in contract. -/
def requestInContract (s : State) : Prop :=
  ∀ w rest i, s.feed = w :: rest → decode w = .ok i → inContract i s

/-- The bus master sends only high bytes of values in `[0, 8191]`: at most 0x1F (R98, R100). -/
def hostByte : Instr → Bool
  | .wrH _ b => decide (b.toNat ≤ 0x1F)
  | _ => true

/-- Every high byte in the receive bank is one of a value in `[0, 8191]` (R98, R100). -/
abbrev hostBytesOk (s : State) : Prop := ∀ c : Channel, (s.readRx (highAddr c)).toNat ≤ 0x1F

/-! ### The error taxonomy (R212) -/

/-- The operation stores a byte of slot `c`. -/
def writesSlot (c : Channel) : Instr → Bool
  | .wrH a _ => decide (channelOf a = c)
  | .wrL a _ => decide (channelOf a = c)
  | _ => false

/-- In a history (oldest first) the most recent write to slot `c` since the last `RESET` is a `WR.H` (R213). R213 says "a
`WR.H 2c` belonging to the same update" and does not define that on a history. DESIGN CHOICE (log 16): any `WR.H` that is the
slot's latest write belongs to the update that the `WR.L` completes, one left over from an abandoned message too. -/
def highByteWaiting (c : Channel) (history : List Instr) : Bool :=
  match history.reverse.find? (fun i => writesSlot c i || decide (i = .reset)) with
  | some (.wrH _ _) => true
  | _ => false

/-- `DESYNC` form 1, orphan low byte: a `WR.L` with no high byte of its own before it (R213). -/
def orphanLow (history : List Instr) : Instr → Bool
  | .wrL a _ => !highByteWaiting (channelOf a) history
  | _ => false

/-- `DESYNC` form 2, overrun: a `WR.L` while `MARK_VALID = 1` (R213). -/
def overrun (s : State) : Instr → Bool
  | .wrL _ _ => s.markValid
  | _ => false

/-- `DESYNC` of an operation, after a history, in a state (R213). -/
def desync (history : List Instr) (s : State) (i : Instr) : Bool := orphanLow history i || overrun s i

/-- The actions traced in frame `k`. -/
def edgesOfFrame (k : Int) (s : State) : List Edge := s.trace.filter (fun e => decide (e.frame = k))

/-- In the run of the operations `l` from `s`, some operation traces the action `e`, and `u` is the state it runs in. -/
def tracedIn (l : List Instr) (s : State) (e : Edge) (u : State) : Prop :=
  ∃ l₁ i l₂ v, l = l₁ ++ i :: l₂ ∧ runInstrs l₁ s = .next u ∧ exec i u = .next v ∧ e ∈ v.trace ∧ e ∉ u.trace

/-- Frame `k`'s edge trace is the eight-action sequence of R169(a): channel 0 falls at the `OFF_CMP` of the state in which
the frame begins, and each later channel at the value its off-time had when the channel before it fell. That each fall is
then in its window is R169(b). -/
def eightActions (k : Int) (l : List Instr) (s t : State) : Prop :=
  ∃ w : Channel → Count, edgesOfFrame k t = frameEdges k w ∧ (∀ c, inWindow c (zext16 (w c))) ∧
    (∃ u, tracedIn l s ⟨k, 0, .rise, 0⟩ u ∧ zext16 (w 0) = u.offCmp) ∧
    ∀ c c' : Channel, c'.val = c.val + 1 → ∃ u, tracedIn l s ⟨k, w c, .fall, c⟩ u ∧ zext16 (w c') = u.offTimeOf c'

/-- Two pins are high. -/
abbrev twoPinsHigh (s : State) : Prop := ∃ c d : Channel, c ≠ d ∧ s.pinOf c = true ∧ s.pinOf d = true

/-- `TIMING_VIOLATION` of frame `k`, which a run of the operations `l` from `s` to `t`, without a `RESET`, begins and
completes: its edge trace is not the eight-action sequence, or two pins are high after one of the frame's operations
(R215). The state before the run and the operations before the frame's `EVT.FS` are no part of the frame. -/
def timingViolation (k : Int) (l : List Instr) (s t : State) : Prop :=
  ¬ eightActions k l s t ∨
    ∃ l₁ i l₂ u, l = l₁ ++ i :: l₂ ∧ runInstrs (l₁ ++ [i]) s = .next u ∧ u.frame = k ∧ twoPinsHigh u

/-! ### Endless schedules and fairness (R68, R222) -/

/-- An endless sequence of operations, one interleaving of the agents (R40, R68, log 18). -/
abbrev Schedule := Nat → Instr

/-- The first `n` operations of a schedule. -/
def firstOps (σ : Schedule) (n : Nat) : List Instr := (List.range n).map σ

/-- The outcome of the first `n` operations of a schedule from `s`. -/
def runFor (σ : Schedule) (n : Nat) (s : State) : Host.Outcome State Fault Refusal := runInstrs (firstOps σ n) s

/-- Weak fairness of an operation: it will always "happen again eventually" (R68). No operation blocks, so none is ever disabled
and weak fairness is that it happens again after every moment (R222). -/
def weaklyFair (i : Instr) (σ : Schedule) : Prop := ∀ n, ∃ m, n ≤ m ∧ σ m = i

/-- After operation `n`, "no second `WR.L` arrives before that `POLL`" (R222), the first one to come, and no `RESET`
(log 18). -/
def undisturbedUntilPoll (σ : Schedule) (n : Nat) : Prop :=
  ∀ m, n < m → (∀ k, n < k → k < m → σ k ≠ .poll) → (∀ a b, σ m ≠ .wrL a b) ∧ σ m ≠ .reset

/-- Operation `n` of a schedule traces a fall of channel `c` at `t`. -/
def fallsAt (σ : Schedule) (s : State) (n : Nat) (c : Channel) (t : Count) : Prop :=
  ∃ u v es k, runFor σ n s = .next u ∧ exec (σ n) u = .next v ∧ v.trace = u.trace ++ es ∧
    (⟨k, t, .fall, c⟩ : Edge) ∈ es

end Sys2Proof.Machine
end

