-- ==== Sys2Proof/Certificates/Slice0/Obligations.lean ====
section
/-! DEFINITION. The statements for the provers. Each docstring names the sentence or section of spec/ it formalises, and
says where a clause rests on a decision of the spec (D<n> of spec/92_eei_decisions.md) or on a choice of the model
(log <n>). -/

open Sys2Proof Sys2Proof.Machine

/-! ### The operation word -/

/-- Decode of encode is the operation, for every well-formed operation and every operand value: "Encode is the inverse"
(30_encoding.md, section 3; the word is the spec's own, D1). -/
def Obligations.DecodeInvertsEncode : Prop :=
  ∀ i : Instr, i.wellFormed = true → decode (encode i) = .ok i

/-- Every word has at most one meaning: a word that decodes is the encoding of what it decodes to, which is well formed
(30_encoding.md, section 3; D1). -/
def Obligations.EncodeInvertsDecode : Prop :=
  ∀ (w : OpWord) (i : Instr), decode w = .ok i → i.wellFormed = true ∧ encode i = w

/-- "A word `w` spells the operation of a row exactly when `w & mask = match`. The rows are mutually exclusive."
(30_encoding.md, section 2; D1.) -/
def Obligations.WordSpellsExactlyItsTableRow : Prop :=
  (∀ (w : OpWord) (i : Instr), decode w = .ok i →
    ∃ r ∈ opTable, r.mnemonic = i.mnemonic ∧ r.spells w = true ∧ ∀ r' ∈ opTable, r'.spells w = true → r' = r) ∧
  (∀ (w : OpWord), ∀ r ∈ opTable, r.spells w = true → ∃ i, decode w = .ok i ∧ i.mnemonic = r.mnemonic)

/-- The reserved words are the ones the spec lists: "`OP` in 0x8 to 0xF; or `Z = 1`; or a must-be-zero field not zero
(`A ≠ 0` or `B ≠ 0` for `TICK`, `POLL`, `EVT.*`, `RESET`; `B ≠ 0` for `RD`)" (30_encoding.md, section 3; D1). The fields
are written as numbers here, not with the decoder's own field functions. -/
def Obligations.ReservedWordsAreTheListedOnes : Prop :=
  ∀ w : OpWord, (∃ why, decode w = .error why) ↔
    (8 ≤ w.toNat / 4096 ∨ w.toNat / 2048 % 2 = 1 ∨
      (w.toNat / 4096 ≠ 1 ∧ w.toNat / 4096 ≠ 2 ∧ (w.toNat / 256 % 8 ≠ 0 ∨ w.toNat % 256 ≠ 0)) ∨
      (w.toNat / 4096 = 2 ∧ w.toNat % 256 ≠ 0))

/-- "exactly `1 + 4·256 + 4·256 + 8 + 5 = 2062` of them spell an operation" (30_encoding.md, section 3; D1). -/
def Obligations.ExactlyThe2062WordsSpellOperations : Prop :=
  ∃ l : List OpWord, l.Nodup ∧ l.length = 2062 ∧ ∀ w, w ∈ l ↔ ∃ i, decode w = .ok i

/-- Words written out from 30_encoding.md section 9 and 95_test_vectors.md V1 to V7 decode as listed there. -/
def Obligations.SpecWordsDecodeAsListed : Prop :=
  decode 0x0000 = .ok .tick ∧ decode 0x1010 = .ok (.wrH 0 0x10) ∧ decode 0x141F = .ok (.wrH 4 0x1F) ∧
  decode 0x1100 = .ok (.wrL 1 0x00) ∧ decode 0x17AB = .ok (.wrL 7 0xAB) ∧ decode 0x2500 = .ok (.rd 5) ∧
  decode 0x3000 = .ok .poll ∧ decode 0x4000 = .ok .evtFs ∧ decode 0x5000 = .ok .evtOn ∧
  decode 0x6000 = .ok .evtOff ∧ decode 0x7000 = .ok .reset ∧
  decode 0x0001 = .error .bField ∧ decode 0x3100 = .error .aField ∧ decode 0x1800 = .error .zBit ∧
  decode 0x8000 = .error .opCode

/-! ### The step -/

/-- A step runs the decoded operation: with a well-formed operation's word next and a `RESET` behind it, the step is that
operation on the state without the word. `withFetchWord` puts a word there. (That requests come as words in a list is the
model's choice, log 1.) -/
def Obligations.StepRunsTheDecodedOperation : Prop :=
  (∀ (s : State) (i : Instr) (rest : List OpWord), i.wellFormed = true → s.started = true →
    s.feed = encode i :: rest → step s = exec i { s with feed := rest }) ∧
  (∀ (s : State) (i : Instr), i.wellFormed = true → s.started = true →
    step (s.withFetchWord 16 (encode i).toNat) = exec i s)

/-- As many steps as there are words run the words' operations in order: nothing is reordered, lost or added
(20_memory.md, section 6; D3; log 1 for the list of words). -/
def Obligations.StepsRunTheRequestsInOrder : Prop :=
  ∀ (l : List Instr) (s : State) (rest : List OpWord), (∀ i ∈ l, i.wellFormed = true) → s.started = true →
    s.feed = l.map encode ++ rest →
    Host.Core.run Sys2Proof.core l.length s = runInstrs l { s with feed := rest }

/-- A reserved word is refused under its name: "the model must refuse it" (30_encoding.md, section 3; D1). -/
def Obligations.ReservedWordIsRefused : Prop :=
  ∀ (s : State) (w : OpWord) (rest : List OpWord) (why : Reserved), s.feed = w :: rest → decode w = .error why →
    step s = .refused (.reservedWord why)

/-- Before the first `RESET`, `RESET` runs and every other operation is refused (70_reset_and_hazards.md, section
"RESET: initialise the block"; D24). -/
def Obligations.OnlyResetRunsBeforeTheFirstReset : Prop :=
  ∀ (s : State) (i : Instr) (rest : List OpWord), i.wellFormed = true → s.started = false → s.feed = encode i :: rest →
    (i = .reset → step s = exec .reset { s with feed := rest }) ∧ (i ≠ .reset → step s = .refused .beforeReset)

/-- With no request outstanding a step changes nothing (the model's choice, log 7; "state changes only by *operations*",
00_scope.md section 4). -/
def Obligations.NoRequestNoChange : Prop := ∀ s : State, s.feed = [] → step s = .next s

/-- Every operation completes on every state and operand value, and leaves banks in canonical form if it found them so:
"always complete and always leave a state in which every element has a legal value" (60_exceptions.md section 4; the
spec derives it; the canonical form is log 6). Hence "no agent can be stuck and there is no deadlock": every schedule runs on
for ever; and with `POLL` weakly fair every completed update is eventually committed, if no second `WR.L` arrives before that
`POLL` (60_exceptions.md section 9, liveness, which the spec derives; that no `RESET` falls there either is log 18). The high
byte committed is the one present at the `POLL`. -/
def Obligations.EveryOperationCompletes : Prop :=
  (∀ (i : Instr) (s : State), ∃ t, exec i s = .next t ∧ (banksOk s → banksOk t)) ∧
  (∀ (σ : Schedule) (s : State) (n : Nat), ∃ t, runFor σ n s = .next t) ∧
  (∀ (σ : Schedule) (s : State) (n : Nat) (c : Channel) (b : Byte), (∀ k, (σ k).wellFormed = true) →
    weaklyFair .poll σ → σ n = .wrL (lowAddr c) b → undisturbedUntilPoll σ n →
    ∃ m u t, n < m ∧ σ m = .poll ∧ runFor σ m s = .next u ∧ runFor σ (m + 1) s = .next t ∧
      u.markSlot = c ∧ t.offTimeOf c = biased c (join (u.readRx (highAddr c)) b) ∧
      t.acceptedRaw c = join (u.readRx (highAddr c)) b ∧ t.markValid = false)

/-! ### The Register File -/

/-- `WR.H a, b` completes; it stores `b` at the even address `a` of the receive bank, every other byte of that bank reads
as before, and nothing else changes. Its word is `0x1000 + a·256 + b` (R120). -/
def Obligations.WrHStoresTheHighByteAndNothingElse : Prop :=
  ∀ (a : Addr) (b : Byte) (s : State), a.toNat % 2 = 0 →
    (encode (.wrH a b)).toNat = 0x1000 + a.toNat * 256 + b.toNat ∧
    ∃ t, exec (.wrH a b) s = .next t ∧ t.readRx a = b ∧ (∀ a', a' ≠ a → t.readRx a' = s.readRx a') ∧
      t = { s with rx := t.rx }

/-- `WR.L a, b` completes; it stores `b` at the odd address `a`, every other byte of the receive bank reads as before, and
the marker names the slot `a[2:1]` whatever it held; nothing else changes. Its word is `0x1000 + a·256 + b` (R121). -/
def Obligations.WrLStoresTheLowByteAndCompletesTheSlot : Prop :=
  ∀ (a : Addr) (b : Byte) (s : State), a.toNat % 2 = 1 →
    (encode (.wrL a b)).toNat = 0x1000 + a.toNat * 256 + b.toNat ∧
    ∃ t, exec (.wrL a b) s = .next t ∧ t.readRx a = b ∧ (∀ a', a' ≠ a → t.readRx a' = s.readRx a') ∧
      t.markValid = true ∧ t.markSlot.val = a.toNat / 2 ∧
      t = { s with rx := t.rx, markValid := true, markSlot := t.markSlot }

/-- `RD a` completes, hands the byte `TX[a]` to the bus master and changes nothing else (40_register_file.md, "RD: read a
byte of the accepted value"; no side effect is D17; that the byte is kept in a list is log 3). -/
def Obligations.RdReturnsTheAcceptedByte : Prop :=
  ∀ (a : Addr) (s : State), exec (.rd a) s = .next { s with reads := s.reads ++ [⟨a, s.readTx a⟩] }

/-- A completed slot `c` whose marker another slot `d` overwrites before the `POLL` is not committed: `d` is, `c`'s bytes
stay in the receive bank, its off-time and its readback stay old, until `c`'s low byte is written again and polled
(40_register_file.md, "Consequences the source calls out"). -/
def Obligations.OverwrittenMarkerLosesTheEarlierUpdate : Prop :=
  ∀ (s : State) (c d : Channel) (v v' : CmpWord), c ≠ d →
    (∃ t, runInstrs (pseudoSet c v ++ pseudoSet d v' ++ [.poll]) s = .next t ∧
      t.offTimeOf d = biased d v' ∧ t.acceptedRaw d = v' ∧ t.markValid = false ∧
      t.offTimeOf c = s.offTimeOf c ∧ t.acceptedRaw c = s.acceptedRaw c ∧ t.pendingRaw c = v) ∧
    (∃ t, runInstrs (pseudoSet c v ++ pseudoSet d v' ++ [.poll, .wrL (lowAddr c) (loByte v), .poll]) s = .next t ∧
      t.offTimeOf c = biased c v ∧ t.acceptedRaw c = v)

/-- The full-refresh message expands to four high-then-low pairs, and with no `POLL` between them the next `POLL` commits
slot 3 only (70_reset_and_hazards.md, "Hazards": "if no `POLL` falls between them only slot 3 is committed; slots 0 to 2 are
"silently skipped""). That the message expands so is 30_encoding.md section 4, which the spec derives, and the address
advance there is inferred (D28). -/
def Obligations.FullRefreshCommitsOnlyTheLastSlot : Prop :=
  ∀ (s : State) (v0 v1 v2 v3 : CmpWord),
    expandMessage (refreshMessage v0 v1 v2 v3) = .ok (pseudoRefresh v0 v1 v2 v3) ∧
    ∃ t, runInstrs (pseudoRefresh v0 v1 v2 v3 ++ [.poll]) s = .next t ∧
      t.offTimeOf 3 = biased 3 v3 ∧ t.acceptedRaw 3 = v3 ∧
      ∀ c : Channel, c ≠ 3 → t.offTimeOf c = s.offTimeOf c ∧ t.acceptedRaw c = s.acceptedRaw c

/-- An orphan low byte completes its slot with the stale high byte, and the next `POLL` commits the mixture
(60_exceptions.md section 5, `DESYNC` form 1: "The slot completes with the stale `RX[2c]`"). -/
def Obligations.OrphanLowByteCommitsTheStaleHighByte : Prop :=
  ∀ (s : State) (c : Channel) (b : Byte), ∃ t, runInstrs [.wrL (lowAddr c) b, .poll] s = .next t ∧
    t.offTimeOf c = biased c (join (s.readRx (highAddr c)) b) ∧
    t.acceptedRaw c = join (s.readRx (highAddr c)) b ∧ t.markValid = false

/-- A high byte written after the slot completed and before the `POLL` is committed with the old low byte
(70_reset_and_hazards.md, "Hazards": "the `POLL` commits the *new* high byte with the *old* low byte"; the spec derives
it). -/
def Obligations.LateHighByteIsCommittedWithTheOldLowByte : Prop :=
  ∀ (s : State) (c : Channel) (v : CmpWord) (h : Byte), ∃ t,
    runInstrs (pseudoSet c v ++ [.wrH (highAddr c) h, .poll]) s = .next t ∧
    t.offTimeOf c = biased c (join h (loByte v)) ∧ t.acceptedRaw c = join h (loByte v)

/-- Reads between the low byte and the `POLL` return the old value, and two reads around the `POLL` return the old high
byte and the new low byte (70_reset_and_hazards.md, "Hazards": read-after-write, and the half read, which the spec
derives). -/
def Obligations.ReadsAreOldUntilThePollAndCanStraddleIt : Prop :=
  ∀ (s : State) (c : Channel) (v : CmpWord),
    (∃ t, runInstrs (pseudoSet c v ++ pseudoGet c) s = .next t ∧
      t.reads = s.reads ++ [⟨highAddr c, s.readTx (highAddr c)⟩, ⟨lowAddr c, s.readTx (lowAddr c)⟩]) ∧
    (∃ t, runInstrs (pseudoSet c v ++ [.rd (highAddr c), .poll, .rd (lowAddr c)]) s = .next t ∧
      t.reads = s.reads ++ [⟨highAddr c, s.readTx (highAddr c)⟩, ⟨lowAddr c, loByte v⟩])

/-! ### The update protocol -/

/-- `POLL` with a slot marked completes: the off-time is `(RX[2c]·256 + RX[2c+1] + c·U) mod 2^16`, the two raw bytes are
mirrored, the marker is consumed and its slot kept, the other channels and the other six bytes are as before, and nothing
else changes (41_update_protocol.md, "POLL: one step of the update protocol"; atomicity is D15, the wrap D4, the kept slot
D18, no clamp D5). -/
def Obligations.PollCommitsMirrorsAndConsumes : Prop :=
  ∀ s : State, s.markValid = true → ∃ t, exec .poll s = .next t ∧
    (t.offTimeOf s.markSlot).toNat =
      ((s.readRx (highAddr s.markSlot)).toNat * 256 + (s.readRx (lowAddr s.markSlot)).toNat +
        s.markSlot.val * 8192) % 65536 ∧
    (∀ c, c ≠ s.markSlot → t.offTimeOf c = s.offTimeOf c) ∧
    t.readTx (highAddr s.markSlot) = s.readRx (highAddr s.markSlot) ∧
    t.readTx (lowAddr s.markSlot) = s.readRx (lowAddr s.markSlot) ∧
    (∀ a, channelOf a ≠ s.markSlot → t.readTx a = s.readTx a) ∧
    t = { s with offTime := t.offTime, tx := t.tx, markValid := false }

/-- The mirror, in the same operation as the commit, copies the two raw bytes of the slot and not the biased value, and
changes no other byte of the transmit bank; with `CLAMP_MODE = clamp` the mirrored bytes are those of the clamped value
(R144). -/
def Obligations.PollMirrorsTheRawBytes : Prop :=
  ∀ s : State, s.markValid = true → exec .poll s = .next (pollWith .trust s) ∧
    (pollWith .trust s).readTx (highAddr s.markSlot) = s.readRx (highAddr s.markSlot) ∧
    (pollWith .trust s).readTx (lowAddr s.markSlot) = s.readRx (lowAddr s.markSlot) ∧
    (pollWith .clamp s).acceptedRaw s.markSlot = BitVec.ofNat 16 (min (s.pendingRaw s.markSlot).toNat 8191) ∧
    ∀ m a, channelOf a ≠ s.markSlot → (pollWith m s).readTx a = s.readTx a

/-- `POLL` with no slot marked leaves the whole state unchanged, and `POLL ; POLL` has the effect of `POLL` (R146). -/
def Obligations.PollWithoutMarkerIsIdleAndPollIsIdempotent : Prop :=
  (∀ s : State, s.markValid = false → exec .poll s = .next s) ∧
  (∀ s : State, runInstrs [.poll, .poll] s = runInstrs [.poll] s)

/-- In contract the biased value is `{0, c[1:0], raw[12:0]}` (30_encoding.md section 5, which derives it). -/
def Obligations.InContractBiasPlacesTheChannelBits : Prop :=
  ∀ (c : Channel) (raw : CmpWord), raw.toNat ≤ 8191 →
    biased c raw = (0#1) ++ BitVec.ofNat 2 c.val ++ raw.extractLsb' 0 13 ∧
    (biased c raw).toNat = c.val * 8192 + raw.toNat

/-- `WINDOW_OK` is kept by every operation, `TICK`, injected events and `RESET` included, but a `POLL` that commits a raw
value above `RAW_MAX` (41_update_protocol.md, "Laws", window preservation, which the spec derives). -/
def Obligations.WindowOkKeptByEveryInContractOperation : Prop :=
  ∀ (i : Instr) (s t : State), windowOk s → ¬ outOfWindow i s → exec i s = .next t → windowOk t

/-- Under `CLAMP_MODE = clamp` the window is kept unconditionally (41_update_protocol.md, "Trusting the wire value"; the
variant is D5). -/
def Obligations.ClampKeepsTheWindowUnconditionally : Prop :=
  ∀ s : State, windowOk s → windowOk (pollWith .clamp s)

/-- `SET c, v`, `POLL`, `GET c` returns `v` for every 16-bit `v`, whatever ticks, reads and injected events fall between
(41_update_protocol.md, "Laws", round trip, which the spec derives). -/
def Obligations.RoundTripUnderInterleaving : Prop :=
  ∀ (s : State) (c : Channel) (v : CmpWord) (l₁ l₂ l₃ : List Instr),
    (∀ i ∈ l₁ ++ l₂ ++ l₃, i = .tick ∨ i = .evtFs ∨ i = .evtOn ∨ i = .evtOff ∨ ∃ a, i = .rd a) →
    ∃ t pre, runInstrs ([.wrH (highAddr c) (hiByte v)] ++ l₁ ++ [.wrL (lowAddr c) (loByte v)] ++ l₂ ++ [.poll] ++ l₃ ++
        pseudoGet c) s = .next t ∧
      t.reads = pre ++ [⟨highAddr c, hiByte v⟩, ⟨lowAddr c, loByte v⟩] ∧ join (hiByte v) (loByte v) = v ∧
      t.offTimeOf c = biased c v

/-- A bus master that sends only high bytes up to 0x1F keeps every slot of the receive bank in the valid range, so that no
`POLL` is out of window (30_encoding.md section 5, the host contract; that the byte bound captures it is read from "the
high byte is at most 0x1F" there). -/
def Obligations.HostBytesKeepEverySlotInRange : Prop :=
  (∀ (i : Instr) (s t : State), hostBytesOk s → i.wellFormed = true → hostByte i = true → exec i s = .next t →
    hostBytesOk t) ∧
  (∀ (i : Instr) (s : State), hostBytesOk s → (∀ c, (s.pendingRaw c).toNat ≤ 8191) ∧ ¬ outOfWindow i s)

/-- The phased `POLL` with nothing between its phases is the atomic `POLL`, and ends at once when no slot is marked
(70_reset_and_hazards.md, "Hazards", the finer-grained `POLL`; not normative, D15, log 12). -/
def Obligations.UninterruptedPhasedPollIsPoll : Prop :=
  ∀ p : Phased, p.phase = .examine →
    (p.main.markValid = true → (Phased.run 7 p).main = pollWith .trust p.main ∧ (Phased.run 7 p).phase = .examine) ∧
    (p.main.markValid = false → Phased.run 1 p = p)

/-- What the phased `POLL` adds: a `WR.L` between the first and the last phase "has its completion cleared without ever
being committed (for any channel, the same or another)" (70_reset_and_hazards.md, "Hazards"; not normative, D15, log 12). -/
def Obligations.PhasedPollCanClearAnUncommittedCompletion : Prop :=
  ∀ (p q : Phased) (a : Addr) (b : Byte), p.phase = .examine → p.main.markValid = true →
    Phased.other (.wrL a b) (Phased.run 3 p) = some q →
    q.main.markValid = true ∧ q.main.markSlot = channelOf a ∧ q.main.readRx a = b ∧
    (Phased.run 4 q).main.markValid = false ∧
    (Phased.run 4 q).main.offTimeOf p.main.markSlot = biased p.main.markSlot (p.main.pendingRaw p.main.markSlot) ∧
    ∀ c, c ≠ p.main.markSlot → (Phased.run 4 q).main.offTimeOf c = p.main.offTimeOf c

/-! ### The frame scheduler -/

/-- `TICK` completes: the counter advances modulo `FRAME_PERIOD`; the three conditions are those of the new value against
the compare registers as they stood before the tick; the handlers run in the order `FS`, `ON`, `OFF`, each on the state the
one before left (42_frame_scheduler.md, "TICK: one increment of the frame clock"; D3, D8, D9, D10). -/
def Obligations.TickAdvancesAndRunsTheRaisedHandlersInOrder : Prop :=
  ∀ s : State,
    let n := (s.cnt.toNat + 1) % 32768
    let u0 : State := { s with cnt := BitVec.ofNat 15 n }
    let u1 := if n = 0 then takeEvent .fs u0 else u0
    let u2 := if n = s.onCmp.toNat then takeEvent .on u1 else u1
    let u3 := if n = s.offCmp.toNat then takeEvent .off u2 else u2
    exec .tick s = .next u3

/-- An injected event runs the handler that `TICK` runs, with `CNT` unchanged and no match test (42_frame_scheduler.md,
"Supporting rules", event injection; D27). -/
def Obligations.InjectedEventRunsTheHandlerOfTheTick : Prop :=
  ∀ (e : Event) (s : State), exec e.injected s = .next (takeEvent e s) ∧ (takeEvent e s).cnt = s.cnt

/-- `EVT.FS` completes: pin 0 rises and is traced, `onCounter` is 1, `offCounter` 0, `ON_CMP` 8192; `OFF_CMP`, `CNT` and
everything else stay. Its word is 0x4000 (42_frame_scheduler.md, "EVT.FS: frame start"). That the trace entry carries the
new frame's number is the model's reading (log 11). -/
def Obligations.EvtFsStartsAFrame : Prop :=
  ∀ s : State, encode .evtFs = 0x4000 ∧
    exec .evtFs s = .next { s with
      pin := s.pin.set 0 true, onCounter := 1, offCounter := 0, onCmp := 8192, frame := s.frame + 1,
      trace := s.trace ++ [⟨s.frame + 1, s.cnt, .rise, 0⟩] }

/-- `EVT.ON` completes: with `onCounter ≤ 3` that channel's pin rises and is traced; with `onCounter = 4` no pin moves. The
head advances with saturation and `ON_CMP` is `on_time` of the new head, in ticks 8192 times it; nothing else changes
(42_frame_scheduler.md, "EVT.ON: rising edge of the next channel"; the sentinel is D11, the saturation D13). -/
def Obligations.EvtOnRaisesTheHeadOfTheOnQueue : Prop :=
  ∀ s : State, ∃ t, exec .evtOn s = .next t ∧
    t.onCounter.val = min (s.onCounter.val + 1) 4 ∧ t.onCmp.toNat = 8192 * t.onCounter.val ∧
    (∀ c : Channel, c.val = s.onCounter.val →
      t.pin = s.pin.set c true ∧ t.trace = s.trace ++ [⟨s.frame, s.cnt, .rise, c⟩]) ∧
    (s.onCounter = 4 → t.pin = s.pin ∧ t.trace = s.trace) ∧
    t = { s with onCounter := t.onCounter, onCmp := t.onCmp, pin := t.pin, trace := t.trace }

/-- `EVT.OFF` completes: with `offCounter ≤ 3` that channel's pin falls and is traced; with `offCounter = 4` no pin moves.
The head advances with saturation and `OFF_CMP` is the committed off-time of the channel that falls next, channel 0 after
channel 3; nothing else changes (42_frame_scheduler.md, "EVT.OFF: falling edge of the next channel"; D12, D13). -/
def Obligations.EvtOffLowersTheHeadOfTheOffQueue : Prop :=
  ∀ s : State, ∃ t, exec .evtOff s = .next t ∧
    t.offCounter.val = min (s.offCounter.val + 1) 4 ∧
    (∀ c : Channel, c.val = t.offCounter.val % 4 → t.offCmp = s.offTimeOf c) ∧
    (∀ c : Channel, c.val = s.offCounter.val →
      t.pin = s.pin.set c false ∧ t.trace = s.trace ++ [⟨s.frame, s.cnt, .fall, c⟩]) ∧
    (s.offCounter = 4 → t.pin = s.pin ∧ t.trace = s.trace) ∧
    t = { s with offCounter := t.offCounter, offCmp := t.offCmp, pin := t.pin, trace := t.trace }

/-- The hard-wired table `on_time` holds 8192 times its index, the sentinel 32768 in entry 4; and a compare register holding
32768 or more, the sentinel among them, raises no event on any tick (10_state.md section 2; 42_frame_scheduler.md,
"Supporting rules", the sentinel; D10, D11). -/
def Obligations.CompareOfAFramePeriodOrMoreNeverMatches : Prop :=
  (∀ h : QueueHead, (onTime h).toNat = 8192 * h.val) ∧
  (∀ s : State, (32768 ≤ s.onCmp.toNat → Event.on ∉ s.raisedByTick) ∧
    (32768 ≤ s.offCmp.toNat → Event.off ∉ s.raisedByTick))

/-- A raw duty of 0 gives a zero-width pulse: in the tick that reaches the channel's on-time the pin is raised and then
lowered, both are traced, and the pin is low after it (42_frame_scheduler.md, "Supporting rules", pulse width, which the
spec derives; the order is D8). That channel 0's edges carry the new frame's number is the model's reading (log 11). -/
def Obligations.ZeroDutyRaisesAndLowersInOneTick : Prop :=
  (∀ s : State, s.cnt.toNat = 32767 → s.onCmp ≠ 0 → s.offCmp = 0 → ∃ t, exec .tick s = .next t ∧
    t.trace = s.trace ++ [⟨s.frame + 1, 0, .rise, 0⟩, ⟨s.frame + 1, 0, .fall, 0⟩] ∧ t.pinOf 0 = false ∧
    t.offCounter = 1 ∧ t.offCmp = s.offTimeOf 1) ∧
  (∀ (s : State) (c : Channel), c ≠ 0 → s.cnt.toNat + 1 = 8192 * c.val → s.onCmp.toNat = 8192 * c.val →
    s.offCmp.toNat = 8192 * c.val → s.onCounter.val = c.val → s.offCounter.val = c.val → ∃ t, exec .tick s = .next t ∧
    t.trace = s.trace ++ [⟨s.frame, t.cnt, .rise, c⟩, ⟨s.frame, t.cnt, .fall, c⟩] ∧ t.pinOf c = false ∧
    t.onCounter.val = c.val + 1 ∧ t.offCounter.val = c.val + 1)

/-- The transition table: for each row, the event in that control state performs the row's action, moves the heads to the
row's next state and leaves the row's values in the compare registers (42_frame_scheduler.md, "Supporting rules", the
transition table, which the spec derives). The heads are read as numbers. That the `FS` row's edge carries the new frame's
number is the model's reading (log 11). -/
def Obligations.TransitionTableRows : Prop :=
  (∀ s : State, (s.onCounter = 4 ∧ s.offCounter = 4) ∨ (s.onCounter = 1 ∧ s.offCounter = 0) →
    (takeEvent .fs s).onCounter = 1 ∧ (takeEvent .fs s).offCounter = 0 ∧
    (takeEvent .fs s).trace = s.trace ++ [⟨s.frame + 1, s.cnt, .rise, 0⟩] ∧
    (takeEvent .fs s).onCmp = 8192 ∧ (takeEvent .fs s).offCmp = s.offCmp) ∧
  (∀ (s : State) (c : Channel), s.onCounter.val = c.val + 1 → s.offCounter.val = c.val →
    (takeEvent .off s).onCounter = s.onCounter ∧ (takeEvent .off s).offCounter.val = c.val + 1 ∧
    (takeEvent .off s).trace = s.trace ++ [⟨s.frame, s.cnt, .fall, c⟩] ∧
    (takeEvent .off s).onCmp = s.onCmp ∧ (takeEvent .off s).offCmp = s.offTimeOf (c + 1)) ∧
  (∀ (s : State) (c : Channel), c ≠ 0 → s.onCounter.val = c.val → s.offCounter.val = c.val →
    (takeEvent .on s).onCounter.val = c.val + 1 ∧ (takeEvent .on s).offCounter = s.offCounter ∧
    (takeEvent .on s).trace = s.trace ++ [⟨s.frame, s.cnt, .rise, c⟩] ∧
    (takeEvent .on s).onCmp.toNat = 8192 * (c.val + 1) ∧ (takeEvent .on s).offCmp = s.offCmp)

/-! ### Whole-machine rules -/

/-- Which operation writes which state: every element is unchanged but by the operations the access matrix marks with a
`w` (10_state.md section 8, which the spec derives). The receive bank is compared byte by byte. -/
def Obligations.AccessMatrixWrites : Prop :=
  ∀ (i : Instr) (s t : State), exec i s = .next t →
    (t.offTime ≠ s.offTime → i = .poll ∨ i = .reset) ∧
    (t.cnt ≠ s.cnt → i = .tick ∨ i = .reset) ∧
    (t.onCounter ≠ s.onCounter → i = .tick ∨ i = .evtFs ∨ i = .evtOn ∨ i = .reset) ∧
    (t.offCounter ≠ s.offCounter → i = .tick ∨ i = .evtFs ∨ i = .evtOff ∨ i = .reset) ∧
    (t.onCmp ≠ s.onCmp → i = .tick ∨ i = .evtFs ∨ i = .evtOn ∨ i = .reset) ∧
    (t.offCmp ≠ s.offCmp → i = .tick ∨ i = .evtOff ∨ i = .reset) ∧
    (t.pin ≠ s.pin → i = .tick ∨ i = .evtFs ∨ i = .evtOn ∨ i = .evtOff ∨ i = .reset) ∧
    (∀ a, t.readRx a ≠ s.readRx a → (∃ b, i = .wrH a b) ∨ (∃ b, i = .wrL a b) ∨ i = .reset) ∧
    (∀ a, t.readTx a ≠ s.readTx a → (i = .poll ∧ channelOf a = s.markSlot) ∨ i = .reset) ∧
    (t.markValid ≠ s.markValid ∨ t.markSlot ≠ s.markSlot → (∃ a b, i = .wrL a b) ∨ i = .poll ∨ i = .reset)

/-- The bus side and the scheduler side share no state, so a bus operation and a scheduler operation give the same state
in either order (10_state.md section 8: "share no state at all"; the order of simultaneous requests is open, D26). -/
def Obligations.BusAndSchedulerOperationsCommute : Prop :=
  ∀ (i j : Instr) (s : State), i.agent = .bus → (j = .tick ∨ j = .evtFs ∨ j = .evtOn ∨ j = .evtOff) →
    runInstrs [i, j] s = runInstrs [j, i] s

/-- What the scheduler never does: with any other contents of the receive bank, the transmit bank and the marker, `TICK` and
the injected events do the same to everything else and leave those contents. They never write `off_time` and perform no
validation: with any other contents of `off_time` only `OFF_CMP` may differ, and where the off handler runs it takes the entry
of the new head as that stands, in its window or not. They answer a next state always (R174). -/
def Obligations.SchedulerNeverReadsTheBusSide : Prop :=
  ∀ (j : Instr) (s : State), (j = .tick ∨ j = .evtFs ∨ j = .evtOn ∨ j = .evtOff) →
    ∃ t, exec j s = .next t ∧ t.offTime = s.offTime ∧ t.rx = s.rx ∧ t.tx = s.tx ∧ t.markValid = s.markValid ∧
      t.markSlot = s.markSlot ∧
      ∀ (off : Vector CmpWord 4) (rx tx : Memory) (v : Bool) (c : Channel),
        exec j { s with offTime := off, rx := rx, tx := tx, markValid := v, markSlot := c } =
          .next { t with
            offTime := off, rx := rx, tx := tx, markValid := v, markSlot := c,
            offCmp := if j = .evtOff ∨ (j = .tick ∧ (s.cnt.toNat + 1) % 32768 = s.offCmp.toNat)
              then off[wrapHead t.offCounter] else s.offCmp }

/-- Every pin change is a traced action: what an operation other than `RESET` adds to the trace carries the counter value
and the frame number it leaves, at most three actions are added, a channel with no action keeps its level, and one with an
action has the level of its last (00_scope.md section 4, observation; D20). That an `EVT.FS` traces its rise under the frame
number it leaves is the model's reading (log 11). -/
def Obligations.PinChangesAreTraced : Prop :=
  ∀ (i : Instr) (s t : State), i ≠ .reset → exec i s = .next t →
    ∃ es : List Edge, t.trace = s.trace ++ es ∧ es.length ≤ 3 ∧ (∀ e ∈ es, e.time = t.cnt ∧ e.frame = t.frame) ∧
      ∀ c : Channel, ((∀ e ∈ es, e.channel ≠ c) → t.pinOf c = s.pinOf c) ∧
        (∀ e, (es.filter (fun e => decide (e.channel = c))).getLast? = some e → t.pinOf c = decide (e.kind = .rise))

/-- No torn value: whatever the off-compare newly holds is the whole content of an off-time entry (70_reset_and_hazards.md,
"Hazards": "`OFF_CMP` only ever holds values that were, at some time, the whole content of an `off_time` entry"). -/
def Obligations.OffCompareTakesOnlyWholeCommittedValues : Prop :=
  ∀ (i : Instr) (s t : State), exec i s = .next t → t.offCmp = s.offCmp ∨ ∃ c, t.offCmp = t.offTimeOf c

/-- The block invariant is kept by every step, whatever is requested, contract or not: banks in canonical form (log 6),
the readback invariant (41_update_protocol.md, "Laws"), the on-compare the time of the head of the next-on queue and that
head never 0 (10_state.md sections 3 and 4), no traced frame in the future (log 11). -/
def Obligations.BlockInvKeptByEveryStep : Prop :=
  ∀ s t : State, blockInv s → step s = .next t → blockInv t

/-- The frame invariant is kept by every step whose request is in contract: inside a frame at most the window's channel is
high, and both queues stand where the counter says (42_frame_scheduler.md, "Supporting rules", the shape of a frame, which
the spec derives). -/
def Obligations.FrameInvKeptByEveryInContractStep : Prop :=
  ∀ s t : State, frameInv s → requestInContract s → step s = .next t → frameInv t

/-- Under the frame invariant no two pins are high and `QUEUE_OK` holds, in every state of an in-contract run
(42_frame_scheduler.md, "Supporting rules": "at most one pin is high at any time and no two pulses overlap"). -/
def Obligations.InContractRunsNeverOverlapPulses : Prop :=
  ∀ (l : List Instr) (s t : State), frameInv s → inContractRun l s → runInstrs l s = .next t →
    ¬ twoPinsHigh t ∧ queueOk t ∧ windowOk t

/-- An `OUT_OF_WINDOW` poll completes, commits the value unchanged, and the channel's off-time is then outside its window,
whatever the bias sum wraps to (60_exceptions.md section 5; no clamp is D5, the wrap D4). -/
def Obligations.OutOfWindowPollBreaksTheWindow : Prop :=
  ∀ s : State, outOfWindow .poll s → ∃ t, exec .poll s = .next t ∧
    t.offTimeOf s.markSlot = biased s.markSlot (s.pendingRaw s.markSlot) ∧
    ¬ inWindow s.markSlot (t.offTimeOf s.markSlot) ∧ ¬ windowOk t

/-- `DESYNC`, as the taxonomy defines it: a low byte right after its own high byte is no orphan, one after a low byte of its
slot or with no write to its slot since `RESET` is one, and operations that write other slots do not matter; and a `WR.L`
while the marker is set is an overrun, so one after a completed pair with no `POLL` between, and not one after a `POLL`
(60_exceptions.md section 5; a predicate over histories and no state). That every high byte that is its slot's latest write
counts as the low byte's own is the model's choice (log 16). -/
def Obligations.DesyncIsAnOrphanLowByteOrAnOverrun : Prop :=
  (∀ (h : List Instr) (c : Channel) (hi lo : Byte),
    orphanLow (h ++ [.wrH (highAddr c) hi]) (.wrL (lowAddr c) lo) = false ∧
    orphanLow (h ++ [.wrL (lowAddr c) hi]) (.wrL (lowAddr c) lo) = true ∧
    orphanLow (h ++ [.reset]) (.wrL (lowAddr c) lo) = true) ∧
  (∀ (h : List Instr) (i : Instr) (c : Channel) (lo : Byte), writesSlot c i = false → i ≠ .reset →
    orphanLow (h ++ [i]) (.wrL (lowAddr c) lo) = orphanLow h (.wrL (lowAddr c) lo)) ∧
  (∀ (s : State) (c d : Channel) (v : CmpWord) (b : Byte),
    (∃ t, runInstrs (pseudoSet c v) s = .next t ∧ overrun t (.wrL (lowAddr d) b) = true) ∧
    (∃ t, runInstrs (pseudoUpdate c v) s = .next t ∧ overrun t (.wrL (lowAddr d) b) = false)) ∧
  (∀ (h : List Instr) (s : State) (i : Instr), desync h s i = true ↔ orphanLow h i = true ∨ overrun s i = true)

/-- The shape of a frame. From a boundary with `WINDOW_OK`, a run of in-contract operations with `FRAME_PERIOD` ticks among
them completes, and there are fall times `w` such that: channel 0 falls at the latched `OFF_CMP`; every fall is in its
window; each later fall is the off-time its channel had when the channel before fell; the trace grows by exactly the eight
edges; after every operation from the first tick on, a pin is high exactly from its on-time to its fall; `QUEUE_OK` holds
throughout; and the final state is again at a boundary with both queues exhausted, the sentinel in `ON_CMP`, and in
`OFF_CMP` the off-time channel 0 had when channel 3 fell (42_frame_scheduler.md, "Supporting rules", which the spec
derives; the frame numbers of the trace are log 11). -/
def Obligations.FrameShape : Prop :=
  ∀ (s : State) (l : List Instr), atBoundary s → windowOk s → inContractRun l s → l.count .tick = 32768 →
    ∃ t, runInstrs l s = .next t ∧ ∃ w : Channel → Count,
      zext16 (w 0) = s.offCmp ∧
      (∀ k : Channel, inWindow k (zext16 (w k))) ∧
      (∀ k k' : Channel, k'.val = k.val + 1 → ∃ l₁ l₂ u, l = l₁ ++ .tick :: l₂ ∧ runInstrs l₁ s = .next u ∧
        aboutToFall u k ∧ nextCount u.cnt = w k ∧ zext16 (w k') = u.offTimeOf k') ∧
      t.trace = s.trace ++ frameEdges (s.frame + 1) w ∧
      (∀ l₁ l₂ u, l = l₁ ++ l₂ → runInstrs l₁ s = .next u → queueOk u ∧
        (Instr.tick ∈ l₁ → ∀ c : Channel,
          u.pinOf c = decide (c.val * 8192 ≤ u.cnt.toNat ∧ u.cnt.toNat < (w c).toNat))) ∧
      atBoundary t ∧ t.onCounter = 4 ∧ t.offCounter = 4 ∧ t.onCmp = 32768 ∧
      ∃ l₁ l₂ u, l = l₁ ++ .tick :: l₂ ∧ runInstrs l₁ s = .next u ∧ aboutToFall u 3 ∧ nextCount u.cnt = w 3 ∧
        t.offCmp = u.offTimeOf 0

/-- No `OUT_OF_WINDOW` and no injected event: no `TIMING_VIOLATION`, for every frame that starts at a boundary with
`WINDOW_OK` (60_exceptions.md section 5: "under the host contract it never happens"; the spec derives it). The frame's edges
are picked by the number they carry, and that `rise(0)` carries its own frame's number is the model's reading (log 11). -/
def Obligations.NoOutOfWindowNoTimingViolation : Prop :=
  ∀ (s t : State) (l : List Instr), atBoundary s → windowOk s → traceOk s → inContractRun l s →
    l.count .tick = 32768 → runInstrs l s = .next t → ¬ timingViolation (s.frame + 1) l s t

/-- When a commit takes effect: from a boundary with `WINDOW_OK`, two frames of ticks with bus operations and no `POLL`
among them trace, in the first, the latched time for channel 0 and the committed off-times for channels 1 to 3, and in the
second the committed off-times of all four (20_memory.md section 9 and 41_update_protocol.md, "Laws", commit latency, both
of which the spec derives; the frame numbers are log 11). And in general "the committed value eventually governs the pin":
from any state of the frame invariant, `WINDOW_OK` with it, on every in-contract schedule with `TICK` weakly fair that commits
no other value to channel `c`, the channel falls at its committed off-time within `2·FRAME_PERIOD` ticks, at no other time from
then on, and again and again (60_exceptions.md section 9, liveness, which the spec derives; log 18). -/
def Obligations.CommittedOffTimesGovernTheSecondFrame : Prop :=
  (∀ (s : State) (l : List Instr), atBoundary s → windowOk s → (∀ i ∈ l, freeRunning i = true ∧ i ≠ .poll) →
    l.count .tick = 65536 →
    ∃ t, runInstrs l s = .next t ∧ atBoundary t ∧ t.offTime = s.offTime ∧
      t.trace = s.trace ++
        frameEdges (s.frame + 1) (fun c => ((if c = 0 then s.offCmp else s.offTimeOf c).setWidth 15 : Count)) ++
        frameEdges (s.frame + 2) (fun c => ((s.offTimeOf c).setWidth 15 : Count))) ∧
  (∀ (σ : Schedule) (s : State) (c : Channel) (v : CmpWord), frameInv s → weaklyFair .tick σ →
    (∀ n u, runFor σ n s = .next u → inContract (σ n) u ∧ u.offTimeOf c = v) →
    ∃ n, (firstOps σ (n + 1)).count .tick ≤ 65536 ∧ fallsAt σ s n c (v.setWidth 15) ∧
      (∀ m t, n ≤ m → fallsAt σ s m c t → t = v.setWidth 15) ∧
      ∀ m, ∃ m', m ≤ m' ∧ fallsAt σ s m' c (v.setWidth 15))

/-- An abandoned fall persists: at the end of a frame with a stale value in `OFF_CMP` that channel 1's off-time never
exceeds, another frame, whatever else is committed meanwhile, lowers channel 0 only, at the stale value, leaves the pins of
channels 1 to 3 high, and ends with a stale value again that is no later (70_reset_and_hazards.md, "Hazards", persistent
malfunction, and 42_frame_scheduler.md, "Supporting rules", abandoned edges, both of which the spec derives). -/
def Obligations.AbandonedFallsPersistFrameAfterFrame : Prop :=
  ∀ (s : State) (l : List Instr), s.cnt.toNat = 32767 → s.onCmp ≠ 0 → s.offCmp.toNat < 32768 →
    (∀ i ∈ l, freeRunning i = true) → l.count .tick = 32768 →
    (∀ l₁ l₂ u, l = l₁ ++ l₂ → runInstrs l₁ s = .next u → (u.offTimeOf 1).toNat ≤ s.offCmp.toNat) →
    ∃ t, runInstrs l s = .next t ∧ t.cnt.toNat = 32767 ∧ t.onCmp ≠ 0 ∧ t.offCounter = 1 ∧
      t.offCmp.toNat ≤ s.offCmp.toNat ∧ t.pin = #v[false, true, true, true] ∧
      ∃ es, t.trace = s.trace ++ es ∧
        es.filter (fun e => decide (e.kind = .fall)) = [⟨s.frame + 1, s.offCmp.setWidth 15, .fall, 0⟩]

/-- The stall: with 32768 or more in `OFF_CMP`, no operation but `RESET` and an injected `EVT.OFF` changes it, lowers a pin
or traces a fall (70_reset_and_hazards.md, "Hazards": the unrecoverable stall, which the spec derives). -/
def Obligations.StalledOffQueueNeverLowersAPin : Prop :=
  ∀ (i : Instr) (s t : State), 32768 ≤ s.offCmp.toNat → i ≠ .reset → i ≠ .evtOff → exec i s = .next t →
    t.offCmp = s.offCmp ∧ (∀ c : Channel, s.pinOf c = true → t.pinOf c = true) ∧
    ∃ es : List Edge, t.trace = s.trace ++ es ∧ ∀ e ∈ es, e.kind = .rise

/-- The stall ends with every pin high: a frame run from its boundary with 32768 or more in `OFF_CMP`, whatever the bus and
the update agent do meanwhile, leaves all four pins high and `OFF_CMP` as it was (42_frame_scheduler.md, "Supporting
rules": "by the end of the following frame all four pins are high"; the spec derives it). -/
def Obligations.StalledFrameEndsWithAllPinsHigh : Prop :=
  ∀ (s : State) (l : List Instr), s.cnt.toNat = 32767 → s.onCmp ≠ 0 → 32768 ≤ s.offCmp.toNat →
    (∀ i ∈ l, freeRunning i = true) → l.count .tick = 32768 →
    ∃ t, runInstrs l s = .next t ∧ (∀ c : Channel, t.pinOf c = true) ∧ t.offCmp = s.offCmp ∧ t.cnt.toNat = 32767

/-- One default frame from `RESET`, tick by tick: the ten rows of the table (`defaultFrameRows`), with every element the row does not list at its
reset value (42_frame_scheduler.md, "Supporting rules", the last table, which the spec derives; the reset values are D6,
D7, D14). A row gives `CNT`, the pins, the heads and the compare registers after that many ticks. -/
def Obligations.DefaultFrameTable : Prop :=
  ∀ r ∈ defaultFrameRows, ∃ t, runInstrs (pseudoTicks r.ticks) State.reset = .next t ∧
    t = { State.reset with cnt := r.cnt, pin := r.pin, onCounter := r.onCounter, offCounter := r.offCounter,
                           onCmp := r.onCmp, offCmp := r.offCmp, trace := t.trace, frame := t.frame }

/-! ### Reset -/

/-- `RESET` completes from every state, before the first `RESET` too, and puts every mutable element at its reset value,
the trace empty and the frame number at −1; what the bus master has read and what the agents still request stay (log 4,
log 1). (70_reset_and_hazards.md, "RESET: initialise the block"; the values are D6, D7, D14.) -/
def Obligations.ResetRestoresEveryElement : Prop :=
  (∀ s : State, exec .reset s = .next { State.reset with reads := s.reads, feed := s.feed }) ∧
  (∀ c : Channel, (State.reset.offTimeOf c).toNat = c.val * 8192 + 4096) ∧
  (∀ a : Addr, State.reset.readRx a = (if a.toNat % 2 = 0 then 0x10 else 0x00) ∧
    State.reset.readTx a = (if a.toNat % 2 = 0 then 0x10 else 0x00))

/-- `RESET ; RESET` equals `RESET`, a pending completion is discarded, and the first `TICK` after `RESET` is the frame
boundary (70_reset_and_hazards.md, "RESET: initialise the block", corner cases; D14). The model's own clauses: `reads` and
`feed` stay as they were (log 4, log 1), and the first tick's `rise(0)` carries the number 0 of the frame it begins (log 11).
-/
def Obligations.ResetIsIdempotentAndStartsAtABoundary : Prop :=
  ∀ s : State, runInstrs [.reset, .reset] s = runInstrs [.reset] s ∧
    runInstrs [.reset, .poll] s = runInstrs [.reset] s ∧
    runInstrs [.reset, .tick] s = .next { State.reset with
      cnt := 0, pin := #v[true, false, false, false], frame := 0, trace := [⟨0, 0, .rise, 0⟩],
      reads := s.reads, feed := s.feed }

/-- The state after reset meets every invariant and ghost predicate, and is at a boundary (70_reset_and_hazards.md, "RESET:
initialise the block", what the reset state guarantees, which the spec derives). -/
def Obligations.ResetStateMeetsEveryInvariant : Prop :=
  windowOk State.reset ∧ queueOk State.reset ∧ atBoundary State.reset ∧ blockInv State.reset ∧ frameInv State.reset ∧
    hostBytesOk State.reset

/-! ### Wire messages and ports -/

/-- A write message becomes one write for each data byte, to consecutive addresses from `m[0]`, `WR.H` or `WR.L` by the
parity of the address; a message that runs past address 7 is refused (30_encoding.md section 4, which the spec derives;
the address advance is D28, the refusal D16). -/
def Obligations.MessageExpandsToConsecutiveWrites : Prop :=
  ∀ (m0 : Byte) (data : List Byte), data ≠ [] →
    (m0.toNat + data.length ≤ 8 → ∃ l, expandMessage (m0 :: data) = .ok l ∧ l.length = data.length ∧
      ∀ (n : Nat) (b : Byte), data[n]? = some b →
        l[n]? = some (if (m0.toNat + n) % 2 = 0 then .wrH (BitVec.ofNat 3 (m0.toNat + n)) b
          else .wrL (BitVec.ofNat 3 (m0.toNat + n)) b) ∧
        (∀ i, l[n]? = some i → i.wellFormed = true)) ∧
    (8 < m0.toNat + data.length → expandMessage (m0 :: data) = .error .messagePastEnd)

/-- A clock cycle of the ports: with `rst` it amounts to `RESET` alone, whatever else is presented, event code 3 too; without
`rst` it amounts to the requests it presents, any subset of them, in any order and to nothing else, and with event code 3 to
nothing at all. The event codes 0, 1, 2 stand for `EVT.FS`, `EVT.ON`, `EVT.OFF` and are bits 1 and 0 of `OP` of their words
(10_state.md section 9; 30_encoding.md section 8; D21, D26). That a cycle is a relation on lists, and that `rst` overrides
event code 3 as it does every other request, is the model's reading (log 14). -/
def Obligations.PortCycleAdmitsEveryOrderAndResetOverrides : Prop :=
  (∀ (p : PortCycle) (l : List Instr), p.rst = true → (p.Admits l ↔ l = [.reset])) ∧
  (∀ (p : PortCycle) (l : List Instr), p.rst = false → p.evt ≠ some 3 →
    (p.Admits l ↔ l.Perm (
      (p.wr.map fun (a, b) => if a.toNat % 2 = 0 then Instr.wrH a b else .wrL a b).toList ++ (p.rd.map Instr.rd).toList ++
      (if p.poll then [.poll] else []) ++ (if p.tick then [.tick] else []) ++
      (if p.evt = some 0 then [.evtFs] else if p.evt = some 1 then [.evtOn] else if p.evt = some 2 then [.evtOff]
        else [])))) ∧
  (∀ p : PortCycle, p.evt = some 3 → p.requests = .error .reservedEventCode ∧
    (p.rst = false → ∀ l : List Instr, ¬ p.Admits l)) ∧
  ([0, 1, 2, 3].map Event.ofCode = [some .fs, some .on, some .off, none]) ∧
  (∀ e : Event, Event.ofCode e.code = some e ∧ e.code = (encode e.injected).extractLsb' 12 2)
end

