-- ==== Sys2Proof/Laws/Decode.lean ====
section
/-! SUPPORT. The fields of a word put together from fields, and a word put together from its own fields. -/

namespace Sys2Proof

section
variable (op : BitVec 4) (a : Addr) (b : Byte)

@[simp] theorem opField_opWord : opField (opWord op a b) = op := by
  apply BitVec.eq_of_getLsbD_eq
  intro k hk
  have h1 : ¬ 12 + k < 8 := by omega
  have h2 : ¬ 12 + k - 8 < 3 := by omega
  have h3 : ¬ 12 + k - 8 - 3 < 1 := by omega
  have h4 : 12 + k - 8 - 3 - 1 = k := by omega
  simp only [opField, opWord, BitVec.getLsbD_extractLsb', BitVec.getLsbD_append]
  simp [h1, h2, h3, h4, hk]

@[simp] theorem zField_opWord : zField (opWord op a b) = false := by
  simp only [zField, opWord, BitVec.getLsbD_append]
  simp

@[simp] theorem aField_opWord : aField (opWord op a b) = a := by
  apply BitVec.eq_of_getLsbD_eq
  intro k hk
  simp only [aField, opWord, BitVec.getLsbD_extractLsb', BitVec.getLsbD_append]
  simp [hk]

@[simp] theorem bField_opWord : bField (opWord op a b) = b := by
  apply BitVec.eq_of_getLsbD_eq
  intro k hk
  simp only [bField, opWord, BitVec.getLsbD_extractLsb', BitVec.getLsbD_append]
  simp [hk]
end

/-- A word with `Z = 0` is put together from its own fields. -/
theorem opWord_fields {w : OpWord} (h : zField w = false) : opWord (opField w) (aField w) (bField w) = w := by
  apply BitVec.eq_of_getLsbD_eq
  intro k hk
  simp only [opWord, opField, aField, bField, BitVec.getLsbD_extractLsb', BitVec.getLsbD_append]
  by_cases h8 : k < 8
  · simp [h8]
  · by_cases h11 : k - 8 < 3
    · have h4 : 8 + (k - 8) = k := by omega
      simp [h8, h11, h4]
    · by_cases h12 : k - 8 - 3 < 1
      · obtain rfl : k = 11 := by omega
        simpa [zField] using h.symm
      · have h4 : 12 + (k - 8 - 3 - 1) = k := by omega
        have h5 : k - 8 - 3 - 1 < 4 := by omega
        simp [h8, h11, h12, h4, h5]

end Sys2Proof
end

