-- ==== Sys2Proof/Laws/Memory.lean ====
section
/-! SUPPORT. The laws of a bank of the bus register space: a read after a write, the canonical form, and that two
canonical banks that read alike are equal. -/

namespace Sys2Proof.Machine.Memory

@[simp] theorem read_nil (a : Nat) : read [] a = unlisted a := rfl

theorem read_erase_same (m : Memory) (a : Nat) : (m.erase a).read a = unlisted a := by
  induction m with
  | nil => rfl
  | cons cell rest ih =>
    obtain ⟨k, v⟩ := cell
    by_cases h : k = a <;> simp [erase, read, h, ih]

theorem read_erase_other (m : Memory) {a x : Nat} (h : x ≠ a) : (m.erase a).read x = m.read x := by
  induction m with
  | nil => rfl
  | cons cell rest ih =>
    obtain ⟨k, v⟩ := cell
    by_cases hk : k = a
    · subst hk; simp [erase, read, ih, h.symm]
    · simp [erase, read, hk, ih]

theorem read_insert_other (m : Memory) {a x : Nat} (b : Byte) (h : x ≠ a) : (m.insert a b).read x = m.read x := by
  induction m with
  | nil => simp [insert, read, h.symm]
  | cons cell rest ih =>
    obtain ⟨k, v⟩ := cell
    by_cases hk : a < k
    · simp [insert, hk, read, h.symm]
    · simp [insert, hk, read, ih]

theorem read_insert_erase_same (m : Memory) (a : Nat) (b : Byte) : ((m.erase a).insert a b).read a = b := by
  induction m with
  | nil => simp [erase, insert, read]
  | cons cell rest ih =>
    obtain ⟨k, v⟩ := cell
    by_cases hk : k = a
    · simp [erase, hk, ih]
    · by_cases hl : a < k <;> simp [erase, insert, read, hk, hl, ih]

/-- A read of the written address gives the written byte. -/
theorem read_write_same (m : Memory) (a : Nat) (b : Byte) : (m.write a b).read a = b := by
  unfold write
  split
  · next h => rw [read_erase_same, h]
  · exact read_insert_erase_same m a b

/-- A read of any other address gives what it gave before. -/
theorem read_write_other (m : Memory) {a x : Nat} (b : Byte) (h : x ≠ a) : (m.write a b).read x = m.read x := by
  unfold write
  split
  · exact read_erase_other m h
  · rw [read_insert_other _ _ h, read_erase_other m h]

theorem rising_mono {m : Memory} {lo lo' : Nat} (h : lo' ≤ lo) (hm : rising m lo = true) : rising m lo' = true := by
  cases m with
  | nil => rfl
  | cons cell rest =>
    obtain ⟨k, v⟩ := cell
    simp only [rising, Bool.and_eq_true, decide_eq_true_eq] at hm ⊢
    exact ⟨by omega, hm.2⟩

theorem rising_erase {m : Memory} {lo : Nat} (a : Nat) (hm : rising m lo = true) : rising (m.erase a) lo = true := by
  induction m generalizing lo with
  | nil => rfl
  | cons cell rest ih =>
    obtain ⟨k, v⟩ := cell
    simp only [rising, Bool.and_eq_true, decide_eq_true_eq] at hm
    by_cases hk : k = a
    · simpa only [erase, hk, if_true] using rising_mono (by omega) (ih hm.2)
    · simp [erase, hk, rising, hm.1, ih hm.2]

theorem rising_insert {m : Memory} {lo a : Nat} (b : Byte) (hlo : lo ≤ a) (hm : rising m lo = true)
    (ha : ∀ cell ∈ m, cell.1 ≠ a) : rising (m.insert a b) lo = true := by
  induction m generalizing lo with
  | nil => simp [insert, rising, hlo]
  | cons cell rest ih =>
    obtain ⟨k, v⟩ := cell
    simp only [rising, Bool.and_eq_true, decide_eq_true_eq] at hm
    have hk : k ≠ a := ha (k, v) (by simp)
    by_cases hl : a < k
    · simp only [insert, hl, if_true, rising, Bool.and_eq_true, decide_eq_true_eq]
      exact ⟨hlo, by omega, hm.2⟩
    · simp only [insert, hl, if_false, rising, Bool.and_eq_true, decide_eq_true_eq]
      exact ⟨hm.1, ih (by omega) hm.2 fun c hc => ha c (by simp [hc])⟩

theorem mem_erase {m : Memory} {a : Nat} {cell : Host.Cell} (h : cell ∈ m.erase a) : cell ∈ m ∧ cell.1 ≠ a := by
  induction m with
  | nil => simp [erase] at h
  | cons head rest ih =>
    obtain ⟨k, v⟩ := head
    by_cases hk : k = a
    · simp only [erase, hk, if_true] at h
      exact ⟨by simp [(ih h).1], (ih h).2⟩
    · simp only [erase, hk, if_false, List.mem_cons] at h
      rcases h with rfl | h
      · exact ⟨by simp, hk⟩
      · exact ⟨by simp [(ih h).1], (ih h).2⟩

theorem mem_insert {m : Memory} {a : Nat} {b : Byte} {cell : Host.Cell} (h : cell ∈ m.insert a b) :
    cell = (a, b) ∨ cell ∈ m := by
  induction m with
  | nil => simpa [insert] using h
  | cons head rest ih =>
    obtain ⟨k, v⟩ := head
    by_cases hl : a < k
    · simpa only [insert, hl, if_true, List.mem_cons] using h
    · simp only [insert, hl, if_false, List.mem_cons] at h
      rcases h with rfl | h
      · simp
      · rcases ih h with h | h <;> simp [h]

theorem wf_iff (m : Memory) :
    m.wf = true ↔ rising m 0 = true ∧ ∀ cell ∈ m, cell.1 < 8 ∧ cell.2 ≠ unlisted cell.1 := by
  simp [wf, List.all_eq_true]

/-- Every write at an address below 8 keeps the canonical form. -/
theorem wf_write {m : Memory} {a : Nat} (b : Byte) (ha : a < 8) (hm : m.wf = true) : (m.write a b).wf = true := by
  rw [wf_iff] at hm ⊢
  unfold write
  split
  · exact ⟨rising_erase a hm.1, fun cell hc => hm.2 cell (mem_erase hc).1⟩
  · next hb =>
    refine ⟨rising_insert b (Nat.zero_le a) (rising_erase a hm.1) fun cell hc => (mem_erase hc).2, fun cell hc => ?_⟩
    rcases mem_insert hc with rfl | hc
    · exact ⟨ha, hb⟩
    · exact hm.2 cell (mem_erase hc).1

theorem wf_nil : wf [] = true := rfl

theorem read_of_rising {m : Memory} {lo a : Nat} (h : a < lo) (hm : rising m lo = true) : m.read a = unlisted a := by
  induction m generalizing lo with
  | nil => rfl
  | cons cell rest ih =>
    obtain ⟨k, v⟩ := cell
    simp only [rising, Bool.and_eq_true, decide_eq_true_eq] at hm
    have hk : k ≠ a := by omega
    simpa [read, hk] using ih (by omega) hm.2

theorem ext_of_rising {m m' : Memory} {lo : Nat} (hm : rising m lo = true) (hm' : rising m' lo = true)
    (hv : ∀ cell ∈ m, cell.2 ≠ unlisted cell.1) (hv' : ∀ cell ∈ m', cell.2 ≠ unlisted cell.1)
    (h : ∀ a, m.read a = m'.read a) : m = m' := by
  induction m generalizing m' lo with
  | nil =>
    cases m' with
    | nil => rfl
    | cons cell rest =>
      exact absurd (by simpa [read] using (h cell.1).symm) (hv' cell (by simp))
  | cons cell rest ih =>
    obtain ⟨k, v⟩ := cell
    have hr := hm
    simp only [rising, Bool.and_eq_true, decide_eq_true_eq] at hr
    cases m' with
    | nil => exact absurd (by simpa [read] using h k) (hv (k, v) (by simp))
    | cons cell' rest' =>
      obtain ⟨k', v'⟩ := cell'
      have hr' := hm'
      simp only [rising, Bool.and_eq_true, decide_eq_true_eq] at hr'
      have hkk : k = k' := by
        rcases Nat.lt_trichotomy k k' with hlt | heq | hgt
        · have := h k
          rw [read_of_rising (m := (k', v') :: rest') (lo := k') hlt (by simp [rising, hr'.2])] at this
          exact absurd (by simpa [read] using this) (hv (k, v) (by simp))
        · exact heq
        · have := h k'
          rw [read_of_rising (m := (k, v) :: rest) (lo := k) hgt (by simp [rising, hr.2])] at this
          exact absurd (by simpa [read] using this.symm) (hv' (k', v') (by simp))
      subst hkk
      have hvv : v = v' := by simpa [read] using h k
      subst hvv
      refine congrArg _ (ih hr.2 hr'.2 (fun c hc => hv c (by simp [hc])) (fun c hc => hv' c (by simp [hc])) fun a => ?_)
      by_cases hka : k = a
      · subst hka
        rw [read_of_rising (Nat.lt_succ_self k) hr.2, read_of_rising (Nat.lt_succ_self k) hr'.2]
      · simpa [read, hka] using h a

/-- Equal banks are equal data: canonical banks that read alike are the same list. -/
theorem ext {m m' : Memory} (hm : m.wf = true) (hm' : m'.wf = true) (h : ∀ a, m.read a = m'.read a) : m = m' := by
  rw [wf_iff] at hm hm'
  exact ext_of_rising hm.1 hm'.1 (fun c hc => (hm.2 c hc).2) (fun c hc => (hm'.2 c hc).2) h

end Sys2Proof.Machine.Memory
end

