-- ==== Sys2Proof/Laws/Operands.lean ====
section
/-! SUPPORT. One lemma for each operand form: what it computes, in numbers. -/

namespace Sys2Proof.Machine

@[simp] theorem join_toNat (hi lo : Byte) : (join hi lo).toNat = hi.toNat * 256 + lo.toNat := by
  simp only [join, BitVec.toNat_append]
  rw [← Nat.shiftLeft_add_eq_or_of_lt lo.isLt, Nat.shiftLeft_eq]

@[simp] theorem join_hiByte_loByte (v : CmpWord) : join (hiByte v) (loByte v) = v := by
  apply BitVec.eq_of_toNat_eq
  simp [hiByte, loByte, Nat.shiftRight_eq_div_pow]
  omega

@[simp] theorem hiByte_join (hi lo : Byte) : hiByte (join hi lo) = hi := by
  apply BitVec.eq_of_toNat_eq
  simp [hiByte, Nat.shiftRight_eq_div_pow]
  omega

@[simp] theorem loByte_join (hi lo : Byte) : loByte (join hi lo) = lo := by
  apply BitVec.eq_of_toNat_eq
  simp [loByte]
  omega

theorem bias_toNat (c : Channel) : (bias c).toNat = c.val * 8192 := by revert c; decide

/-- The committed value in numbers (R142). -/
theorem biased_toNat (c : Channel) (raw : CmpWord) : (biased c raw).toNat = (raw.toNat + c.val * 8192) % 65536 := by
  simp [biased, bias_toNat]

@[simp] theorem channelOf_highAddr (c : Channel) : channelOf (highAddr c) = c := by revert c; decide
@[simp] theorem channelOf_lowAddr (c : Channel) : channelOf (lowAddr c) = c := by revert c; decide
@[simp] theorem isLow_highAddr (c : Channel) : isLow (highAddr c) = false := by revert c; decide
@[simp] theorem isLow_lowAddr (c : Channel) : isLow (lowAddr c) = true := by revert c; decide

theorem highAddr_toNat (c : Channel) : (highAddr c).toNat = 2 * c.val := by revert c; decide
theorem lowAddr_toNat (c : Channel) : (lowAddr c).toNat = 2 * c.val + 1 := by revert c; decide

theorem channelOf_val (a : Addr) : (channelOf a).val = a.toNat / 2 := by revert a; decide

/-- An address is the high or the low address of its channel (R61). -/
theorem addr_cases (a : Addr) : a = highAddr (channelOf a) ∨ a = lowAddr (channelOf a) := by revert a; decide

theorem highAddr_ne_lowAddr (c d : Channel) : highAddr c ≠ lowAddr d := by revert c d; decide
theorem highAddr_inj {c d : Channel} (h : highAddr c = highAddr d) : c = d := by revert c d; decide
theorem lowAddr_inj {c d : Channel} (h : lowAddr c = lowAddr d) : c = d := by revert c d; decide

/-- The table `on_time` in ticks (R22). -/
theorem onTime_toNat (i : QueueHead) : (onTime i).toNat = 8192 * i.val := by revert i; decide

theorem advance_val (i : QueueHead) : (advance i).val = min (i.val + 1) 4 := rfl
theorem wrapHead_val (i : QueueHead) : (wrapHead i).val = i.val % 4 := rfl

theorem headChannel_of_lt {i : QueueHead} {c : Channel} (h : c.val = i.val) : headChannel i = some c := by
  have : i.val < 4 := h ▸ c.isLt
  simp [headChannel, this, Fin.ext_iff, h]

@[simp] theorem headChannel_four : headChannel 4 = none := rfl

/-- A queue head is a channel or 4. -/
theorem head_cases (i : QueueHead) : (∃ c : Channel, c.val = i.val ∧ headChannel i = some c) ∨ (i = 4 ∧ headChannel i = none) := by
  revert i; decide

theorem zext16_toNat (t : Count) : (zext16 t).toNat = t.toNat := by
  simp [zext16]; omega

theorem nextCount_toNat (t : Count) : (nextCount t).toNat = (t.toNat + 1) % 32768 := by
  simp [nextCount, Config.framePeriod]

theorem fsRaised_iff (t : Count) : fsRaised t = true ↔ t.toNat = 0 := by
  simp [fsRaised, ← BitVec.toNat_inj]

/-- A match is equality of numbers (R172). -/
theorem cmpRaised_iff (t : Count) (v : CmpWord) : cmpRaised t v = true ↔ t.toNat = v.toNat := by
  simp [cmpRaised, ← BitVec.toNat_inj, zext16_toNat]

theorem mem_raised_fs {t : Count} {v w : CmpWord} : Event.fs ∈ raised t v w ↔ t.toNat = 0 := by
  simp [raised, fsRaised_iff]

theorem mem_raised_on {t : Count} {v w : CmpWord} : Event.on ∈ raised t v w ↔ t.toNat = v.toNat := by
  simp [raised, cmpRaised_iff]

theorem mem_raised_off {t : Count} {v w : CmpWord} : Event.off ∈ raised t v w ↔ t.toNat = w.toNat := by
  simp [raised, cmpRaised_iff]

end Sys2Proof.Machine
end

