-- ==== Sys2Proof/Laws/State.lean ====
section
/-! SUPPORT. One lemma for each field of State under each named update, true by rfl: no later proof unfolds a record
update. -/

namespace Sys2Proof.Machine.State

section writeRx
variable (s : State) (a : Addr) (b : Byte)

@[simp] theorem writeRx_offTime : (s.writeRx a b).offTime = s.offTime := rfl
@[simp] theorem writeRx_cnt : (s.writeRx a b).cnt = s.cnt := rfl
@[simp] theorem writeRx_onCounter : (s.writeRx a b).onCounter = s.onCounter := rfl
@[simp] theorem writeRx_offCounter : (s.writeRx a b).offCounter = s.offCounter := rfl
@[simp] theorem writeRx_onCmp : (s.writeRx a b).onCmp = s.onCmp := rfl
@[simp] theorem writeRx_offCmp : (s.writeRx a b).offCmp = s.offCmp := rfl
@[simp] theorem writeRx_pin : (s.writeRx a b).pin = s.pin := rfl
@[simp] theorem writeRx_rx : (s.writeRx a b).rx = s.rx.write a.toNat b := rfl
@[simp] theorem writeRx_tx : (s.writeRx a b).tx = s.tx := rfl
@[simp] theorem writeRx_markValid : (s.writeRx a b).markValid = s.markValid := rfl
@[simp] theorem writeRx_markSlot : (s.writeRx a b).markSlot = s.markSlot := rfl
@[simp] theorem writeRx_trace : (s.writeRx a b).trace = s.trace := rfl
@[simp] theorem writeRx_frame : (s.writeRx a b).frame = s.frame := rfl
@[simp] theorem writeRx_reads : (s.writeRx a b).reads = s.reads := rfl
@[simp] theorem writeRx_started : (s.writeRx a b).started = s.started := rfl
@[simp] theorem writeRx_feed : (s.writeRx a b).feed = s.feed := rfl

@[simp] theorem writeRx_offTimeOf (d : Channel) : (s.writeRx a b).offTimeOf d = s.offTimeOf d := rfl
@[simp] theorem writeRx_pinOf (d : Channel) : (s.writeRx a b).pinOf d = s.pinOf d := rfl
@[simp] theorem writeRx_readTx (x : Addr) : (s.writeRx a b).readTx x = s.readTx x := rfl
@[simp] theorem writeRx_acceptedRaw (d : Channel) : (s.writeRx a b).acceptedRaw d = s.acceptedRaw d := rfl

end writeRx

section writeTx
variable (s : State) (a : Addr) (b : Byte)

@[simp] theorem writeTx_offTime : (s.writeTx a b).offTime = s.offTime := rfl
@[simp] theorem writeTx_cnt : (s.writeTx a b).cnt = s.cnt := rfl
@[simp] theorem writeTx_onCounter : (s.writeTx a b).onCounter = s.onCounter := rfl
@[simp] theorem writeTx_offCounter : (s.writeTx a b).offCounter = s.offCounter := rfl
@[simp] theorem writeTx_onCmp : (s.writeTx a b).onCmp = s.onCmp := rfl
@[simp] theorem writeTx_offCmp : (s.writeTx a b).offCmp = s.offCmp := rfl
@[simp] theorem writeTx_pin : (s.writeTx a b).pin = s.pin := rfl
@[simp] theorem writeTx_rx : (s.writeTx a b).rx = s.rx := rfl
@[simp] theorem writeTx_tx : (s.writeTx a b).tx = s.tx.write a.toNat b := rfl
@[simp] theorem writeTx_markValid : (s.writeTx a b).markValid = s.markValid := rfl
@[simp] theorem writeTx_markSlot : (s.writeTx a b).markSlot = s.markSlot := rfl
@[simp] theorem writeTx_trace : (s.writeTx a b).trace = s.trace := rfl
@[simp] theorem writeTx_frame : (s.writeTx a b).frame = s.frame := rfl
@[simp] theorem writeTx_reads : (s.writeTx a b).reads = s.reads := rfl
@[simp] theorem writeTx_started : (s.writeTx a b).started = s.started := rfl
@[simp] theorem writeTx_feed : (s.writeTx a b).feed = s.feed := rfl

@[simp] theorem writeTx_offTimeOf (d : Channel) : (s.writeTx a b).offTimeOf d = s.offTimeOf d := rfl
@[simp] theorem writeTx_pinOf (d : Channel) : (s.writeTx a b).pinOf d = s.pinOf d := rfl
@[simp] theorem writeTx_readRx (x : Addr) : (s.writeTx a b).readRx x = s.readRx x := rfl
@[simp] theorem writeTx_pendingRaw (d : Channel) : (s.writeTx a b).pendingRaw d = s.pendingRaw d := rfl

end writeTx

section commit
variable (s : State) (c : Channel) (v : CmpWord)

@[simp] theorem commit_offTime : (s.commit c v).offTime = s.offTime.set c v := rfl
@[simp] theorem commit_cnt : (s.commit c v).cnt = s.cnt := rfl
@[simp] theorem commit_onCounter : (s.commit c v).onCounter = s.onCounter := rfl
@[simp] theorem commit_offCounter : (s.commit c v).offCounter = s.offCounter := rfl
@[simp] theorem commit_onCmp : (s.commit c v).onCmp = s.onCmp := rfl
@[simp] theorem commit_offCmp : (s.commit c v).offCmp = s.offCmp := rfl
@[simp] theorem commit_pin : (s.commit c v).pin = s.pin := rfl
@[simp] theorem commit_rx : (s.commit c v).rx = s.rx := rfl
@[simp] theorem commit_tx : (s.commit c v).tx = s.tx := rfl
@[simp] theorem commit_markValid : (s.commit c v).markValid = s.markValid := rfl
@[simp] theorem commit_markSlot : (s.commit c v).markSlot = s.markSlot := rfl
@[simp] theorem commit_trace : (s.commit c v).trace = s.trace := rfl
@[simp] theorem commit_frame : (s.commit c v).frame = s.frame := rfl
@[simp] theorem commit_reads : (s.commit c v).reads = s.reads := rfl
@[simp] theorem commit_started : (s.commit c v).started = s.started := rfl
@[simp] theorem commit_feed : (s.commit c v).feed = s.feed := rfl

@[simp] theorem commit_pinOf (d : Channel) : (s.commit c v).pinOf d = s.pinOf d := rfl
@[simp] theorem commit_readRx (x : Addr) : (s.commit c v).readRx x = s.readRx x := rfl
@[simp] theorem commit_readTx (x : Addr) : (s.commit c v).readTx x = s.readTx x := rfl
@[simp] theorem commit_pendingRaw (d : Channel) : (s.commit c v).pendingRaw d = s.pendingRaw d := rfl
@[simp] theorem commit_acceptedRaw (d : Channel) : (s.commit c v).acceptedRaw d = s.acceptedRaw d := rfl

end commit

section setCnt
variable (s : State) (t : Count)

@[simp] theorem setCnt_offTime : (s.setCnt t).offTime = s.offTime := rfl
@[simp] theorem setCnt_cnt : (s.setCnt t).cnt = t := rfl
@[simp] theorem setCnt_onCounter : (s.setCnt t).onCounter = s.onCounter := rfl
@[simp] theorem setCnt_offCounter : (s.setCnt t).offCounter = s.offCounter := rfl
@[simp] theorem setCnt_onCmp : (s.setCnt t).onCmp = s.onCmp := rfl
@[simp] theorem setCnt_offCmp : (s.setCnt t).offCmp = s.offCmp := rfl
@[simp] theorem setCnt_pin : (s.setCnt t).pin = s.pin := rfl
@[simp] theorem setCnt_rx : (s.setCnt t).rx = s.rx := rfl
@[simp] theorem setCnt_tx : (s.setCnt t).tx = s.tx := rfl
@[simp] theorem setCnt_markValid : (s.setCnt t).markValid = s.markValid := rfl
@[simp] theorem setCnt_markSlot : (s.setCnt t).markSlot = s.markSlot := rfl
@[simp] theorem setCnt_trace : (s.setCnt t).trace = s.trace := rfl
@[simp] theorem setCnt_frame : (s.setCnt t).frame = s.frame := rfl
@[simp] theorem setCnt_reads : (s.setCnt t).reads = s.reads := rfl
@[simp] theorem setCnt_started : (s.setCnt t).started = s.started := rfl
@[simp] theorem setCnt_feed : (s.setCnt t).feed = s.feed := rfl

@[simp] theorem setCnt_offTimeOf (d : Channel) : (s.setCnt t).offTimeOf d = s.offTimeOf d := rfl
@[simp] theorem setCnt_pinOf (d : Channel) : (s.setCnt t).pinOf d = s.pinOf d := rfl
@[simp] theorem setCnt_readRx (x : Addr) : (s.setCnt t).readRx x = s.readRx x := rfl
@[simp] theorem setCnt_readTx (x : Addr) : (s.setCnt t).readTx x = s.readTx x := rfl
@[simp] theorem setCnt_pendingRaw (d : Channel) : (s.setCnt t).pendingRaw d = s.pendingRaw d := rfl
@[simp] theorem setCnt_acceptedRaw (d : Channel) : (s.setCnt t).acceptedRaw d = s.acceptedRaw d := rfl

end setCnt

section setOnCounter
variable (s : State) (i : QueueHead)

@[simp] theorem setOnCounter_offTime : (s.setOnCounter i).offTime = s.offTime := rfl
@[simp] theorem setOnCounter_cnt : (s.setOnCounter i).cnt = s.cnt := rfl
@[simp] theorem setOnCounter_onCounter : (s.setOnCounter i).onCounter = i := rfl
@[simp] theorem setOnCounter_offCounter : (s.setOnCounter i).offCounter = s.offCounter := rfl
@[simp] theorem setOnCounter_onCmp : (s.setOnCounter i).onCmp = s.onCmp := rfl
@[simp] theorem setOnCounter_offCmp : (s.setOnCounter i).offCmp = s.offCmp := rfl
@[simp] theorem setOnCounter_pin : (s.setOnCounter i).pin = s.pin := rfl
@[simp] theorem setOnCounter_rx : (s.setOnCounter i).rx = s.rx := rfl
@[simp] theorem setOnCounter_tx : (s.setOnCounter i).tx = s.tx := rfl
@[simp] theorem setOnCounter_markValid : (s.setOnCounter i).markValid = s.markValid := rfl
@[simp] theorem setOnCounter_markSlot : (s.setOnCounter i).markSlot = s.markSlot := rfl
@[simp] theorem setOnCounter_trace : (s.setOnCounter i).trace = s.trace := rfl
@[simp] theorem setOnCounter_frame : (s.setOnCounter i).frame = s.frame := rfl
@[simp] theorem setOnCounter_reads : (s.setOnCounter i).reads = s.reads := rfl
@[simp] theorem setOnCounter_started : (s.setOnCounter i).started = s.started := rfl
@[simp] theorem setOnCounter_feed : (s.setOnCounter i).feed = s.feed := rfl

@[simp] theorem setOnCounter_offTimeOf (d : Channel) : (s.setOnCounter i).offTimeOf d = s.offTimeOf d := rfl
@[simp] theorem setOnCounter_pinOf (d : Channel) : (s.setOnCounter i).pinOf d = s.pinOf d := rfl
@[simp] theorem setOnCounter_readRx (x : Addr) : (s.setOnCounter i).readRx x = s.readRx x := rfl
@[simp] theorem setOnCounter_readTx (x : Addr) : (s.setOnCounter i).readTx x = s.readTx x := rfl
@[simp] theorem setOnCounter_pendingRaw (d : Channel) : (s.setOnCounter i).pendingRaw d = s.pendingRaw d := rfl
@[simp] theorem setOnCounter_acceptedRaw (d : Channel) : (s.setOnCounter i).acceptedRaw d = s.acceptedRaw d := rfl

end setOnCounter

section setOffCounter
variable (s : State) (i : QueueHead)

@[simp] theorem setOffCounter_offTime : (s.setOffCounter i).offTime = s.offTime := rfl
@[simp] theorem setOffCounter_cnt : (s.setOffCounter i).cnt = s.cnt := rfl
@[simp] theorem setOffCounter_onCounter : (s.setOffCounter i).onCounter = s.onCounter := rfl
@[simp] theorem setOffCounter_offCounter : (s.setOffCounter i).offCounter = i := rfl
@[simp] theorem setOffCounter_onCmp : (s.setOffCounter i).onCmp = s.onCmp := rfl
@[simp] theorem setOffCounter_offCmp : (s.setOffCounter i).offCmp = s.offCmp := rfl
@[simp] theorem setOffCounter_pin : (s.setOffCounter i).pin = s.pin := rfl
@[simp] theorem setOffCounter_rx : (s.setOffCounter i).rx = s.rx := rfl
@[simp] theorem setOffCounter_tx : (s.setOffCounter i).tx = s.tx := rfl
@[simp] theorem setOffCounter_markValid : (s.setOffCounter i).markValid = s.markValid := rfl
@[simp] theorem setOffCounter_markSlot : (s.setOffCounter i).markSlot = s.markSlot := rfl
@[simp] theorem setOffCounter_trace : (s.setOffCounter i).trace = s.trace := rfl
@[simp] theorem setOffCounter_frame : (s.setOffCounter i).frame = s.frame := rfl
@[simp] theorem setOffCounter_reads : (s.setOffCounter i).reads = s.reads := rfl
@[simp] theorem setOffCounter_started : (s.setOffCounter i).started = s.started := rfl
@[simp] theorem setOffCounter_feed : (s.setOffCounter i).feed = s.feed := rfl

@[simp] theorem setOffCounter_offTimeOf (d : Channel) : (s.setOffCounter i).offTimeOf d = s.offTimeOf d := rfl
@[simp] theorem setOffCounter_pinOf (d : Channel) : (s.setOffCounter i).pinOf d = s.pinOf d := rfl
@[simp] theorem setOffCounter_readRx (x : Addr) : (s.setOffCounter i).readRx x = s.readRx x := rfl
@[simp] theorem setOffCounter_readTx (x : Addr) : (s.setOffCounter i).readTx x = s.readTx x := rfl
@[simp] theorem setOffCounter_pendingRaw (d : Channel) : (s.setOffCounter i).pendingRaw d = s.pendingRaw d := rfl
@[simp] theorem setOffCounter_acceptedRaw (d : Channel) : (s.setOffCounter i).acceptedRaw d = s.acceptedRaw d := rfl

end setOffCounter

section setOnCmp
variable (s : State) (v : CmpWord)

@[simp] theorem setOnCmp_offTime : (s.setOnCmp v).offTime = s.offTime := rfl
@[simp] theorem setOnCmp_cnt : (s.setOnCmp v).cnt = s.cnt := rfl
@[simp] theorem setOnCmp_onCounter : (s.setOnCmp v).onCounter = s.onCounter := rfl
@[simp] theorem setOnCmp_offCounter : (s.setOnCmp v).offCounter = s.offCounter := rfl
@[simp] theorem setOnCmp_onCmp : (s.setOnCmp v).onCmp = v := rfl
@[simp] theorem setOnCmp_offCmp : (s.setOnCmp v).offCmp = s.offCmp := rfl
@[simp] theorem setOnCmp_pin : (s.setOnCmp v).pin = s.pin := rfl
@[simp] theorem setOnCmp_rx : (s.setOnCmp v).rx = s.rx := rfl
@[simp] theorem setOnCmp_tx : (s.setOnCmp v).tx = s.tx := rfl
@[simp] theorem setOnCmp_markValid : (s.setOnCmp v).markValid = s.markValid := rfl
@[simp] theorem setOnCmp_markSlot : (s.setOnCmp v).markSlot = s.markSlot := rfl
@[simp] theorem setOnCmp_trace : (s.setOnCmp v).trace = s.trace := rfl
@[simp] theorem setOnCmp_frame : (s.setOnCmp v).frame = s.frame := rfl
@[simp] theorem setOnCmp_reads : (s.setOnCmp v).reads = s.reads := rfl
@[simp] theorem setOnCmp_started : (s.setOnCmp v).started = s.started := rfl
@[simp] theorem setOnCmp_feed : (s.setOnCmp v).feed = s.feed := rfl

@[simp] theorem setOnCmp_offTimeOf (d : Channel) : (s.setOnCmp v).offTimeOf d = s.offTimeOf d := rfl
@[simp] theorem setOnCmp_pinOf (d : Channel) : (s.setOnCmp v).pinOf d = s.pinOf d := rfl
@[simp] theorem setOnCmp_readRx (x : Addr) : (s.setOnCmp v).readRx x = s.readRx x := rfl
@[simp] theorem setOnCmp_readTx (x : Addr) : (s.setOnCmp v).readTx x = s.readTx x := rfl
@[simp] theorem setOnCmp_pendingRaw (d : Channel) : (s.setOnCmp v).pendingRaw d = s.pendingRaw d := rfl
@[simp] theorem setOnCmp_acceptedRaw (d : Channel) : (s.setOnCmp v).acceptedRaw d = s.acceptedRaw d := rfl

end setOnCmp

section setOffCmp
variable (s : State) (v : CmpWord)

@[simp] theorem setOffCmp_offTime : (s.setOffCmp v).offTime = s.offTime := rfl
@[simp] theorem setOffCmp_cnt : (s.setOffCmp v).cnt = s.cnt := rfl
@[simp] theorem setOffCmp_onCounter : (s.setOffCmp v).onCounter = s.onCounter := rfl
@[simp] theorem setOffCmp_offCounter : (s.setOffCmp v).offCounter = s.offCounter := rfl
@[simp] theorem setOffCmp_onCmp : (s.setOffCmp v).onCmp = s.onCmp := rfl
@[simp] theorem setOffCmp_offCmp : (s.setOffCmp v).offCmp = v := rfl
@[simp] theorem setOffCmp_pin : (s.setOffCmp v).pin = s.pin := rfl
@[simp] theorem setOffCmp_rx : (s.setOffCmp v).rx = s.rx := rfl
@[simp] theorem setOffCmp_tx : (s.setOffCmp v).tx = s.tx := rfl
@[simp] theorem setOffCmp_markValid : (s.setOffCmp v).markValid = s.markValid := rfl
@[simp] theorem setOffCmp_markSlot : (s.setOffCmp v).markSlot = s.markSlot := rfl
@[simp] theorem setOffCmp_trace : (s.setOffCmp v).trace = s.trace := rfl
@[simp] theorem setOffCmp_frame : (s.setOffCmp v).frame = s.frame := rfl
@[simp] theorem setOffCmp_reads : (s.setOffCmp v).reads = s.reads := rfl
@[simp] theorem setOffCmp_started : (s.setOffCmp v).started = s.started := rfl
@[simp] theorem setOffCmp_feed : (s.setOffCmp v).feed = s.feed := rfl

@[simp] theorem setOffCmp_offTimeOf (d : Channel) : (s.setOffCmp v).offTimeOf d = s.offTimeOf d := rfl
@[simp] theorem setOffCmp_pinOf (d : Channel) : (s.setOffCmp v).pinOf d = s.pinOf d := rfl
@[simp] theorem setOffCmp_readRx (x : Addr) : (s.setOffCmp v).readRx x = s.readRx x := rfl
@[simp] theorem setOffCmp_readTx (x : Addr) : (s.setOffCmp v).readTx x = s.readTx x := rfl
@[simp] theorem setOffCmp_pendingRaw (d : Channel) : (s.setOffCmp v).pendingRaw d = s.pendingRaw d := rfl
@[simp] theorem setOffCmp_acceptedRaw (d : Channel) : (s.setOffCmp v).acceptedRaw d = s.acceptedRaw d := rfl

end setOffCmp

section logRead
variable (s : State) (a : Addr) (v : Byte)

@[simp] theorem logRead_offTime : (s.logRead a v).offTime = s.offTime := rfl
@[simp] theorem logRead_cnt : (s.logRead a v).cnt = s.cnt := rfl
@[simp] theorem logRead_onCounter : (s.logRead a v).onCounter = s.onCounter := rfl
@[simp] theorem logRead_offCounter : (s.logRead a v).offCounter = s.offCounter := rfl
@[simp] theorem logRead_onCmp : (s.logRead a v).onCmp = s.onCmp := rfl
@[simp] theorem logRead_offCmp : (s.logRead a v).offCmp = s.offCmp := rfl
@[simp] theorem logRead_pin : (s.logRead a v).pin = s.pin := rfl
@[simp] theorem logRead_rx : (s.logRead a v).rx = s.rx := rfl
@[simp] theorem logRead_tx : (s.logRead a v).tx = s.tx := rfl
@[simp] theorem logRead_markValid : (s.logRead a v).markValid = s.markValid := rfl
@[simp] theorem logRead_markSlot : (s.logRead a v).markSlot = s.markSlot := rfl
@[simp] theorem logRead_trace : (s.logRead a v).trace = s.trace := rfl
@[simp] theorem logRead_frame : (s.logRead a v).frame = s.frame := rfl
@[simp] theorem logRead_reads : (s.logRead a v).reads = s.reads ++ [⟨a, v⟩] := rfl
@[simp] theorem logRead_started : (s.logRead a v).started = s.started := rfl
@[simp] theorem logRead_feed : (s.logRead a v).feed = s.feed := rfl

@[simp] theorem logRead_offTimeOf (d : Channel) : (s.logRead a v).offTimeOf d = s.offTimeOf d := rfl
@[simp] theorem logRead_pinOf (d : Channel) : (s.logRead a v).pinOf d = s.pinOf d := rfl
@[simp] theorem logRead_readRx (x : Addr) : (s.logRead a v).readRx x = s.readRx x := rfl
@[simp] theorem logRead_readTx (x : Addr) : (s.logRead a v).readTx x = s.readTx x := rfl
@[simp] theorem logRead_pendingRaw (d : Channel) : (s.logRead a v).pendingRaw d = s.pendingRaw d := rfl
@[simp] theorem logRead_acceptedRaw (d : Channel) : (s.logRead a v).acceptedRaw d = s.acceptedRaw d := rfl

end logRead

section openFrame
variable (s : State)

@[simp] theorem openFrame_offTime : s.openFrame.offTime = s.offTime := rfl
@[simp] theorem openFrame_cnt : s.openFrame.cnt = s.cnt := rfl
@[simp] theorem openFrame_onCounter : s.openFrame.onCounter = s.onCounter := rfl
@[simp] theorem openFrame_offCounter : s.openFrame.offCounter = s.offCounter := rfl
@[simp] theorem openFrame_onCmp : s.openFrame.onCmp = s.onCmp := rfl
@[simp] theorem openFrame_offCmp : s.openFrame.offCmp = s.offCmp := rfl
@[simp] theorem openFrame_pin : s.openFrame.pin = s.pin := rfl
@[simp] theorem openFrame_rx : s.openFrame.rx = s.rx := rfl
@[simp] theorem openFrame_tx : s.openFrame.tx = s.tx := rfl
@[simp] theorem openFrame_markValid : s.openFrame.markValid = s.markValid := rfl
@[simp] theorem openFrame_markSlot : s.openFrame.markSlot = s.markSlot := rfl
@[simp] theorem openFrame_trace : s.openFrame.trace = s.trace := rfl
@[simp] theorem openFrame_frame : s.openFrame.frame = s.frame + 1 := rfl
@[simp] theorem openFrame_reads : s.openFrame.reads = s.reads := rfl
@[simp] theorem openFrame_started : s.openFrame.started = s.started := rfl
@[simp] theorem openFrame_feed : s.openFrame.feed = s.feed := rfl

@[simp] theorem openFrame_offTimeOf (d : Channel) : s.openFrame.offTimeOf d = s.offTimeOf d := rfl
@[simp] theorem openFrame_pinOf (d : Channel) : s.openFrame.pinOf d = s.pinOf d := rfl
@[simp] theorem openFrame_readRx (x : Addr) : s.openFrame.readRx x = s.readRx x := rfl
@[simp] theorem openFrame_readTx (x : Addr) : s.openFrame.readTx x = s.readTx x := rfl
@[simp] theorem openFrame_pendingRaw (d : Channel) : s.openFrame.pendingRaw d = s.pendingRaw d := rfl
@[simp] theorem openFrame_acceptedRaw (d : Channel) : s.openFrame.acceptedRaw d = s.acceptedRaw d := rfl

end openFrame

section setPin
variable (s : State) (c : Channel)

@[simp] theorem setPin_offTime : (s.setPin c).offTime = s.offTime := rfl
@[simp] theorem setPin_cnt : (s.setPin c).cnt = s.cnt := rfl
@[simp] theorem setPin_onCounter : (s.setPin c).onCounter = s.onCounter := rfl
@[simp] theorem setPin_offCounter : (s.setPin c).offCounter = s.offCounter := rfl
@[simp] theorem setPin_onCmp : (s.setPin c).onCmp = s.onCmp := rfl
@[simp] theorem setPin_offCmp : (s.setPin c).offCmp = s.offCmp := rfl
@[simp] theorem setPin_pin : (s.setPin c).pin = s.pin.set c true := rfl
@[simp] theorem setPin_rx : (s.setPin c).rx = s.rx := rfl
@[simp] theorem setPin_tx : (s.setPin c).tx = s.tx := rfl
@[simp] theorem setPin_markValid : (s.setPin c).markValid = s.markValid := rfl
@[simp] theorem setPin_markSlot : (s.setPin c).markSlot = s.markSlot := rfl
@[simp] theorem setPin_trace : (s.setPin c).trace = s.trace ++ [⟨s.frame, s.cnt, .rise, c⟩] := rfl
@[simp] theorem setPin_frame : (s.setPin c).frame = s.frame := rfl
@[simp] theorem setPin_reads : (s.setPin c).reads = s.reads := rfl
@[simp] theorem setPin_started : (s.setPin c).started = s.started := rfl
@[simp] theorem setPin_feed : (s.setPin c).feed = s.feed := rfl

@[simp] theorem setPin_offTimeOf (d : Channel) : (s.setPin c).offTimeOf d = s.offTimeOf d := rfl
@[simp] theorem setPin_readRx (x : Addr) : (s.setPin c).readRx x = s.readRx x := rfl
@[simp] theorem setPin_readTx (x : Addr) : (s.setPin c).readTx x = s.readTx x := rfl
@[simp] theorem setPin_pendingRaw (d : Channel) : (s.setPin c).pendingRaw d = s.pendingRaw d := rfl
@[simp] theorem setPin_acceptedRaw (d : Channel) : (s.setPin c).acceptedRaw d = s.acceptedRaw d := rfl

end setPin

section clrPin
variable (s : State) (c : Channel)

@[simp] theorem clrPin_offTime : (s.clrPin c).offTime = s.offTime := rfl
@[simp] theorem clrPin_cnt : (s.clrPin c).cnt = s.cnt := rfl
@[simp] theorem clrPin_onCounter : (s.clrPin c).onCounter = s.onCounter := rfl
@[simp] theorem clrPin_offCounter : (s.clrPin c).offCounter = s.offCounter := rfl
@[simp] theorem clrPin_onCmp : (s.clrPin c).onCmp = s.onCmp := rfl
@[simp] theorem clrPin_offCmp : (s.clrPin c).offCmp = s.offCmp := rfl
@[simp] theorem clrPin_pin : (s.clrPin c).pin = s.pin.set c false := rfl
@[simp] theorem clrPin_rx : (s.clrPin c).rx = s.rx := rfl
@[simp] theorem clrPin_tx : (s.clrPin c).tx = s.tx := rfl
@[simp] theorem clrPin_markValid : (s.clrPin c).markValid = s.markValid := rfl
@[simp] theorem clrPin_markSlot : (s.clrPin c).markSlot = s.markSlot := rfl
@[simp] theorem clrPin_trace : (s.clrPin c).trace = s.trace ++ [⟨s.frame, s.cnt, .fall, c⟩] := rfl
@[simp] theorem clrPin_frame : (s.clrPin c).frame = s.frame := rfl
@[simp] theorem clrPin_reads : (s.clrPin c).reads = s.reads := rfl
@[simp] theorem clrPin_started : (s.clrPin c).started = s.started := rfl
@[simp] theorem clrPin_feed : (s.clrPin c).feed = s.feed := rfl

@[simp] theorem clrPin_offTimeOf (d : Channel) : (s.clrPin c).offTimeOf d = s.offTimeOf d := rfl
@[simp] theorem clrPin_readRx (x : Addr) : (s.clrPin c).readRx x = s.readRx x := rfl
@[simp] theorem clrPin_readTx (x : Addr) : (s.clrPin c).readTx x = s.readTx x := rfl
@[simp] theorem clrPin_pendingRaw (d : Channel) : (s.clrPin c).pendingRaw d = s.pendingRaw d := rfl
@[simp] theorem clrPin_acceptedRaw (d : Channel) : (s.clrPin c).acceptedRaw d = s.acceptedRaw d := rfl

end clrPin

section setMark
variable (s : State) (c : Channel)

@[simp] theorem setMark_offTime : (s.setMark c).offTime = s.offTime := rfl
@[simp] theorem setMark_cnt : (s.setMark c).cnt = s.cnt := rfl
@[simp] theorem setMark_onCounter : (s.setMark c).onCounter = s.onCounter := rfl
@[simp] theorem setMark_offCounter : (s.setMark c).offCounter = s.offCounter := rfl
@[simp] theorem setMark_onCmp : (s.setMark c).onCmp = s.onCmp := rfl
@[simp] theorem setMark_offCmp : (s.setMark c).offCmp = s.offCmp := rfl
@[simp] theorem setMark_pin : (s.setMark c).pin = s.pin := rfl
@[simp] theorem setMark_rx : (s.setMark c).rx = s.rx := rfl
@[simp] theorem setMark_tx : (s.setMark c).tx = s.tx := rfl
@[simp] theorem setMark_markValid : (s.setMark c).markValid = true := rfl
@[simp] theorem setMark_markSlot : (s.setMark c).markSlot = c := rfl
@[simp] theorem setMark_trace : (s.setMark c).trace = s.trace := rfl
@[simp] theorem setMark_frame : (s.setMark c).frame = s.frame := rfl
@[simp] theorem setMark_reads : (s.setMark c).reads = s.reads := rfl
@[simp] theorem setMark_started : (s.setMark c).started = s.started := rfl
@[simp] theorem setMark_feed : (s.setMark c).feed = s.feed := rfl

@[simp] theorem setMark_offTimeOf (d : Channel) : (s.setMark c).offTimeOf d = s.offTimeOf d := rfl
@[simp] theorem setMark_pinOf (d : Channel) : (s.setMark c).pinOf d = s.pinOf d := rfl
@[simp] theorem setMark_readRx (x : Addr) : (s.setMark c).readRx x = s.readRx x := rfl
@[simp] theorem setMark_readTx (x : Addr) : (s.setMark c).readTx x = s.readTx x := rfl
@[simp] theorem setMark_pendingRaw (d : Channel) : (s.setMark c).pendingRaw d = s.pendingRaw d := rfl
@[simp] theorem setMark_acceptedRaw (d : Channel) : (s.setMark c).acceptedRaw d = s.acceptedRaw d := rfl

end setMark

section clearMark
variable (s : State)

@[simp] theorem clearMark_offTime : s.clearMark.offTime = s.offTime := rfl
@[simp] theorem clearMark_cnt : s.clearMark.cnt = s.cnt := rfl
@[simp] theorem clearMark_onCounter : s.clearMark.onCounter = s.onCounter := rfl
@[simp] theorem clearMark_offCounter : s.clearMark.offCounter = s.offCounter := rfl
@[simp] theorem clearMark_onCmp : s.clearMark.onCmp = s.onCmp := rfl
@[simp] theorem clearMark_offCmp : s.clearMark.offCmp = s.offCmp := rfl
@[simp] theorem clearMark_pin : s.clearMark.pin = s.pin := rfl
@[simp] theorem clearMark_rx : s.clearMark.rx = s.rx := rfl
@[simp] theorem clearMark_tx : s.clearMark.tx = s.tx := rfl
@[simp] theorem clearMark_markValid : s.clearMark.markValid = false := rfl
@[simp] theorem clearMark_markSlot : s.clearMark.markSlot = s.markSlot := rfl
@[simp] theorem clearMark_trace : s.clearMark.trace = s.trace := rfl
@[simp] theorem clearMark_frame : s.clearMark.frame = s.frame := rfl
@[simp] theorem clearMark_reads : s.clearMark.reads = s.reads := rfl
@[simp] theorem clearMark_started : s.clearMark.started = s.started := rfl
@[simp] theorem clearMark_feed : s.clearMark.feed = s.feed := rfl

@[simp] theorem clearMark_offTimeOf (d : Channel) : s.clearMark.offTimeOf d = s.offTimeOf d := rfl
@[simp] theorem clearMark_pinOf (d : Channel) : s.clearMark.pinOf d = s.pinOf d := rfl
@[simp] theorem clearMark_readRx (x : Addr) : s.clearMark.readRx x = s.readRx x := rfl
@[simp] theorem clearMark_readTx (x : Addr) : s.clearMark.readTx x = s.readTx x := rfl
@[simp] theorem clearMark_pendingRaw (d : Channel) : s.clearMark.pendingRaw d = s.pendingRaw d := rfl
@[simp] theorem clearMark_acceptedRaw (d : Channel) : s.clearMark.acceptedRaw d = s.acceptedRaw d := rfl

end clearMark

section pushWord
variable (s : State) (w : OpWord)

@[simp] theorem pushWord_offTime : (s.pushWord w).offTime = s.offTime := rfl
@[simp] theorem pushWord_cnt : (s.pushWord w).cnt = s.cnt := rfl
@[simp] theorem pushWord_onCounter : (s.pushWord w).onCounter = s.onCounter := rfl
@[simp] theorem pushWord_offCounter : (s.pushWord w).offCounter = s.offCounter := rfl
@[simp] theorem pushWord_onCmp : (s.pushWord w).onCmp = s.onCmp := rfl
@[simp] theorem pushWord_offCmp : (s.pushWord w).offCmp = s.offCmp := rfl
@[simp] theorem pushWord_pin : (s.pushWord w).pin = s.pin := rfl
@[simp] theorem pushWord_rx : (s.pushWord w).rx = s.rx := rfl
@[simp] theorem pushWord_tx : (s.pushWord w).tx = s.tx := rfl
@[simp] theorem pushWord_markValid : (s.pushWord w).markValid = s.markValid := rfl
@[simp] theorem pushWord_markSlot : (s.pushWord w).markSlot = s.markSlot := rfl
@[simp] theorem pushWord_trace : (s.pushWord w).trace = s.trace := rfl
@[simp] theorem pushWord_frame : (s.pushWord w).frame = s.frame := rfl
@[simp] theorem pushWord_reads : (s.pushWord w).reads = s.reads := rfl
@[simp] theorem pushWord_started : (s.pushWord w).started = s.started := rfl
@[simp] theorem pushWord_feed : (s.pushWord w).feed = w :: s.feed := rfl

@[simp] theorem pushWord_offTimeOf (d : Channel) : (s.pushWord w).offTimeOf d = s.offTimeOf d := rfl
@[simp] theorem pushWord_pinOf (d : Channel) : (s.pushWord w).pinOf d = s.pinOf d := rfl
@[simp] theorem pushWord_readRx (x : Addr) : (s.pushWord w).readRx x = s.readRx x := rfl
@[simp] theorem pushWord_readTx (x : Addr) : (s.pushWord w).readTx x = s.readTx x := rfl
@[simp] theorem pushWord_pendingRaw (d : Channel) : (s.pushWord w).pendingRaw d = s.pendingRaw d := rfl
@[simp] theorem pushWord_acceptedRaw (d : Channel) : (s.pushWord w).acceptedRaw d = s.acceptedRaw d := rfl

end pushWord

end Sys2Proof.Machine.State
end

