-- ==== Sys2Proof/Laws/Ops.lean ====
section
/-! SUPPORT. What the shared operations do, said once: reads after writes of the registers, pins and banks; the handlers'
frame; and the whole effect of each handler. -/

namespace Sys2Proof.Machine

/-! ### Reads after writes -/

theorem addr_toNat_ne {a x : Addr} (h : x ≠ a) : x.toNat ≠ a.toNat := fun e => h (BitVec.eq_of_toNat_eq e)

@[simp] theorem readRx_writeRx_same (s : State) (a : Addr) (b : Byte) : (s.writeRx a b).readRx a = b :=
  Memory.read_write_same _ _ _

theorem readRx_writeRx_other (s : State) {a x : Addr} (b : Byte) (h : x ≠ a) : (s.writeRx a b).readRx x = s.readRx x :=
  Memory.read_write_other _ _ (addr_toNat_ne h)

@[simp] theorem readTx_writeTx_same (s : State) (a : Addr) (b : Byte) : (s.writeTx a b).readTx a = b :=
  Memory.read_write_same _ _ _

theorem readTx_writeTx_other (s : State) {a x : Addr} (b : Byte) (h : x ≠ a) : (s.writeTx a b).readTx x = s.readTx x :=
  Memory.read_write_other _ _ (addr_toNat_ne h)

@[simp] theorem offTimeOf_commit_same (s : State) (c : Channel) (v : CmpWord) : (s.commit c v).offTimeOf c = v := by
  simp [State.offTimeOf]

theorem offTimeOf_commit_other (s : State) {c d : Channel} (v : CmpWord) (h : d ≠ c) :
    (s.commit c v).offTimeOf d = s.offTimeOf d := by
  simp [State.offTimeOf, Fin.val_ne_of_ne h.symm]

theorem pinOf_setPin (s : State) (c d : Channel) : (s.setPin c).pinOf d = if d = c then true else s.pinOf d := by
  simp [State.pinOf, Vector.getElem_set, Fin.ext_iff, eq_comm]

theorem pinOf_clrPin (s : State) (c d : Channel) : (s.clrPin c).pinOf d = if d = c then false else s.pinOf d := by
  simp [State.pinOf, Vector.getElem_set, Fin.ext_iff, eq_comm]

/-- A pin vector is known by its four levels. -/
theorem pin_ext {s t : State} (h : ∀ c, s.pinOf c = t.pinOf c) : s.pin = t.pin := by
  apply Vector.ext
  intro n hn
  exact h ⟨n, hn⟩

/-! ### The mirror -/

@[simp] theorem mirror_acceptedRaw_same (s : State) (c : Channel) (v : CmpWord) : (s.mirror c v).acceptedRaw c = v := by
  simp [State.mirror, State.acceptedRaw, readTx_writeTx_other _ _ (highAddr_ne_lowAddr c c)]

theorem mirror_readTx_other (s : State) {c : Channel} (v : CmpWord) {a : Addr} (h : channelOf a ≠ c) :
    (s.mirror c v).readTx a = s.readTx a := by
  have h1 : a ≠ highAddr c := fun e => h (by simp [e])
  have h2 : a ≠ lowAddr c := fun e => h (by simp [e])
  rw [State.mirror, readTx_writeTx_other _ _ h2, readTx_writeTx_other _ _ h1]

theorem mirror_acceptedRaw_other (s : State) {c d : Channel} (v : CmpWord) (h : d ≠ c) :
    (s.mirror c v).acceptedRaw d = s.acceptedRaw d := by
  simp [State.acceptedRaw, mirror_readTx_other, h]

theorem mirror_readTx_high (s : State) (c : Channel) (v : CmpWord) : (s.mirror c v).readTx (highAddr c) = hiByte v := by
  rw [State.mirror, readTx_writeTx_other _ _ (highAddr_ne_lowAddr c c), readTx_writeTx_same]

theorem mirror_readTx_low (s : State) (c : Channel) (v : CmpWord) : (s.mirror c v).readTx (lowAddr c) = loByte v := by
  rw [State.mirror, readTx_writeTx_same]

/-! ### The handlers -/

theorem raiseHead_of_channel (s : State) {i : QueueHead} {c : Channel} (h : c.val = i.val) :
    s.raiseHead i = s.setPin c := by simp [State.raiseHead, headChannel_of_lt h]

@[simp] theorem raiseHead_four (s : State) : s.raiseHead 4 = s := rfl

theorem lowerHead_of_channel (s : State) {i : QueueHead} {c : Channel} (h : c.val = i.val) :
    s.lowerHead i = s.clrPin c := by simp [State.lowerHead, headChannel_of_lt h]

@[simp] theorem lowerHead_four (s : State) : s.lowerHead 4 = s := rfl

/-- Raising a head changes the pins and the trace only. -/
theorem raiseHead_frame (s : State) (i : QueueHead) :
    s.raiseHead i = { s with pin := (s.raiseHead i).pin, trace := (s.raiseHead i).trace } := by
  rcases head_cases i with ⟨c, hc, -⟩ | ⟨rfl, -⟩
  · rw [raiseHead_of_channel s hc]; rfl
  · rfl

/-- Lowering a head changes the pins and the trace only. -/
theorem lowerHead_frame (s : State) (i : QueueHead) :
    s.lowerHead i = { s with pin := (s.lowerHead i).pin, trace := (s.lowerHead i).trace } := by
  rcases head_cases i with ⟨c, hc, -⟩ | ⟨rfl, -⟩
  · rw [lowerHead_of_channel s hc]; rfl
  · rfl

/-- A handler changes the scheduler's own state only: neither `CNT`, nor the off-times, the banks, the marker, what the bus
master has read, nor what is requested (R174). -/
theorem takeEvent_frame (e : Event) (s : State) :
    takeEvent e s = { s with
      onCounter := (takeEvent e s).onCounter, offCounter := (takeEvent e s).offCounter, onCmp := (takeEvent e s).onCmp,
      offCmp := (takeEvent e s).offCmp, pin := (takeEvent e s).pin, trace := (takeEvent e s).trace,
      frame := (takeEvent e s).frame } := by
  cases e
  · rfl
  · simp only [takeEvent, onEvent]; rw [raiseHead_frame]; rfl
  · simp only [takeEvent, offEvent]; rw [lowerHead_frame]; rfl

section
variable (e : Event) (s : State)
@[simp] theorem takeEvent_cnt : (takeEvent e s).cnt = s.cnt := by rw [takeEvent_frame]
@[simp] theorem takeEvent_offTime : (takeEvent e s).offTime = s.offTime := by rw [takeEvent_frame]
@[simp] theorem takeEvent_rx : (takeEvent e s).rx = s.rx := by rw [takeEvent_frame]
@[simp] theorem takeEvent_tx : (takeEvent e s).tx = s.tx := by rw [takeEvent_frame]
@[simp] theorem takeEvent_markValid : (takeEvent e s).markValid = s.markValid := by rw [takeEvent_frame]
@[simp] theorem takeEvent_markSlot : (takeEvent e s).markSlot = s.markSlot := by rw [takeEvent_frame]
@[simp] theorem takeEvent_reads : (takeEvent e s).reads = s.reads := by rw [takeEvent_frame]
@[simp] theorem takeEvent_started : (takeEvent e s).started = s.started := by rw [takeEvent_frame]
@[simp] theorem takeEvent_feed : (takeEvent e s).feed = s.feed := by rw [takeEvent_frame]
@[simp] theorem takeEvent_offTimeOf (c : Channel) : (takeEvent e s).offTimeOf c = s.offTimeOf c := by
  simp [State.offTimeOf]
end

/-- A handler with other contents of the bus side, `off_time` and `OFF_CMP`: only what the off handler reloads follows
`off_time` (R174). -/
theorem takeEvent_withBusSide (e : Event) (s : State) (off : Vector CmpWord 4) (rx tx : Memory) (v : Bool) (c : Channel)
    (o : CmpWord) :
    takeEvent e { s with offTime := off, rx := rx, tx := tx, markValid := v, markSlot := c, offCmp := o } =
      { takeEvent e s with
        offTime := off, rx := rx, tx := tx, markValid := v, markSlot := c,
        offCmp := if e = .off then off[wrapHead (takeEvent e s).offCounter] else o } := by
  cases e with
  | fs => rfl
  | on => rcases head_cases s.onCounter with ⟨d, _, h⟩ | ⟨_, h⟩ <;>
      simp only [takeEvent, onEvent, State.raiseHead, h] <;> rfl
  | off => rcases head_cases s.offCounter with ⟨d, _, h⟩ | ⟨_, h⟩ <;>
      simp only [takeEvent, offEvent, State.lowerHead, h] <;> rfl

section
variable (s : State)
/-- `EVT.FS`, whole (R162). -/
theorem frameStart_eq : takeEvent .fs s =
    (((s.openFrame.setPin 0).setOnCounter 1).setOffCounter 0).setOnCmp (onTime 1) := rfl

/-- `EVT.ON` with a channel at the head, whole (R163). -/
theorem onEvent_of_channel {c : Channel} (h : c.val = s.onCounter.val) : takeEvent .on s =
    ((s.setPin c).setOnCounter (advance s.onCounter)).setOnCmp (onTime (advance s.onCounter)) := by
  simp only [takeEvent, onEvent, raiseHead_of_channel s h]

/-- `EVT.ON` with the queue empty, whole (R166). -/
theorem onEvent_of_empty (h : s.onCounter = 4) : takeEvent .on s = s.setOnCmp (onTime 4) := by
  have ha : advance 4 = 4 := by decide
  simp only [takeEvent, onEvent, h, raiseHead_four, ha, State.setOnCounter, State.setOnCmp]

/-- `EVT.OFF` with a channel at the head, whole (R164). -/
theorem offEvent_of_channel {c : Channel} (h : c.val = s.offCounter.val) : takeEvent .off s =
    ((s.clrPin c).setOffCounter (advance s.offCounter)).setOffCmp
      (s.offTimeOf (wrapHead (advance s.offCounter))) := by
  simp only [takeEvent, offEvent, lowerHead_of_channel s h]

/-- `EVT.OFF` with the queue empty, whole (R166). -/
theorem offEvent_of_empty (h : s.offCounter = 4) : takeEvent .off s = s.setOffCmp (s.offTimeOf 0) := by
  have ha : advance 4 = 4 := by decide
  have hw : wrapHead 4 = 0 := by decide
  simp only [takeEvent, offEvent, h, lowerHead_four, ha, hw, State.setOffCounter, State.setOffCmp]
end

end Sys2Proof.Machine
end

