-- ==== Sys2Proof/Laws/Exec.lean ====
section
/-! SUPPORT. What `exec`, `TICK`, `POLL` and `step` can do, said once. -/

namespace Sys2Proof.Machine

section
variable (s : State)
@[simp] theorem exec_tick : exec .tick s = .next (tick s) := rfl
@[simp] theorem exec_wrH (a : Addr) (b : Byte) : exec (.wrH a b) s = .next (s.writeRx a b) := rfl
@[simp] theorem exec_wrL (a : Addr) (b : Byte) : exec (.wrL a b) s = .next ((s.writeRx a b).setMark (channelOf a)) := rfl
@[simp] theorem exec_rd (a : Addr) : exec (.rd a) s = .next (s.logRead a (s.readTx a)) := rfl
@[simp] theorem exec_poll : exec .poll s = .next (pollWith .trust s) := rfl
@[simp] theorem exec_evtFs : exec .evtFs s = .next (takeEvent .fs s) := rfl
@[simp] theorem exec_evtOn : exec .evtOn s = .next (takeEvent .on s) := rfl
@[simp] theorem exec_evtOff : exec .evtOff s = .next (takeEvent .off s) := rfl
@[simp] theorem exec_reset : exec .reset s = .next (resetBlock s) := rfl
end

/-! ### Runs -/

@[simp] theorem runInstrs_nil (s : State) : runInstrs [] s = .next s := rfl

theorem runInstrs_cons_of_next {i : Instr} {l : List Instr} {s t : State} (h : exec i s = .next t) :
    runInstrs (i :: l) s = runInstrs l t := by simp [runInstrs, h]

/-- A run in two parts. -/
theorem runInstrs_append_of_next {l₁ l₂ : List Instr} {s t : State} (h : runInstrs l₁ s = .next t) :
    runInstrs (l₁ ++ l₂) s = runInstrs l₂ t := by
  induction l₁ generalizing s with
  | nil => cases h; rfl
  | cons i rest ih =>
    simp only [runInstrs, List.cons_append] at h ⊢
    cases he : exec i s with
    | next u => simp only [he] at h ⊢; exact ih h
    | fault r => simp [he] at h
    | refused r => simp [he] at h

/-! ### TICK -/

theorem takeEvents_nil (s : State) : takeEvents [] s = s := rfl
theorem takeEvents_cons (e : Event) (es : List Event) (s : State) :
    takeEvents (e :: es) s = takeEvents es (takeEvent e s) := rfl

/-- Handlers change the scheduler's own state only. -/
theorem takeEvents_frame (es : List Event) (s : State) :
    takeEvents es s = { s with
      onCounter := (takeEvents es s).onCounter, offCounter := (takeEvents es s).offCounter,
      onCmp := (takeEvents es s).onCmp, offCmp := (takeEvents es s).offCmp, pin := (takeEvents es s).pin,
      trace := (takeEvents es s).trace, frame := (takeEvents es s).frame } := by
  induction es generalizing s with
  | nil => rfl
  | cons e es ih => rw [takeEvents_cons, ih (takeEvent e s)]; simp

/-- `TICK` changes `CNT` and the scheduler's own state only (R34, R174). -/
theorem tick_frame (s : State) :
    tick s = { s with
      cnt := nextCount s.cnt, onCounter := (tick s).onCounter, offCounter := (tick s).offCounter,
      onCmp := (tick s).onCmp, offCmp := (tick s).offCmp, pin := (tick s).pin, trace := (tick s).trace,
      frame := (tick s).frame } := by
  unfold tick
  rw [takeEvents_frame]
  rfl

section
variable (s : State)
@[simp] theorem tick_cnt : (tick s).cnt = nextCount s.cnt := by rw [tick_frame]
@[simp] theorem tick_offTime : (tick s).offTime = s.offTime := by rw [tick_frame]
@[simp] theorem tick_rx : (tick s).rx = s.rx := by rw [tick_frame]
@[simp] theorem tick_tx : (tick s).tx = s.tx := by rw [tick_frame]
@[simp] theorem tick_markValid : (tick s).markValid = s.markValid := by rw [tick_frame]
@[simp] theorem tick_markSlot : (tick s).markSlot = s.markSlot := by rw [tick_frame]
@[simp] theorem tick_reads : (tick s).reads = s.reads := by rw [tick_frame]
@[simp] theorem tick_started : (tick s).started = s.started := by rw [tick_frame]
@[simp] theorem tick_feed : (tick s).feed = s.feed := by rw [tick_frame]
@[simp] theorem tick_offTimeOf (c : Channel) : (tick s).offTimeOf c = s.offTimeOf c := by simp [State.offTimeOf]
end

/-- The events a tick raises, by the three conditions (R160). -/
theorem raisedByTick_eq (s : State) : s.raisedByTick =
    (if (nextCount s.cnt).toNat = 0 then [Event.fs] else []) ++
      (if (nextCount s.cnt).toNat = s.onCmp.toNat then [Event.on] else []) ++
      (if (nextCount s.cnt).toNat = s.offCmp.toNat then [Event.off] else []) := by
  simp only [State.raisedByTick, raised, fsRaised_iff, cmpRaised_iff]

/-- A tick that raises no event changes `CNT` only. -/
theorem tick_of_quiet {s : State} (h0 : (nextCount s.cnt).toNat ≠ 0)
    (h1 : (nextCount s.cnt).toNat ≠ s.onCmp.toNat) (h2 : (nextCount s.cnt).toNat ≠ s.offCmp.toNat) :
    tick s = s.setCnt (nextCount s.cnt) := by
  simp [tick, raisedByTick_eq, h0, h1, h2, takeEvents]

/-- `TICK` as three tests of the new counter value, in the order of the handlers (R160, R161). -/
theorem tick_eq_ifs (s : State) : tick s =
    let n := nextCount s.cnt
    let u0 := s.setCnt n
    let u1 := if n.toNat = 0 then takeEvent .fs u0 else u0
    let u2 := if n.toNat = s.onCmp.toNat then takeEvent .on u1 else u1
    if n.toNat = s.offCmp.toNat then takeEvent .off u2 else u2 := by
  simp only [tick, raisedByTick_eq]
  split_ifs <;> rfl

/-! ### POLL -/

theorem pollWith_of_unmarked (m : Config.ClampMode) {s : State} (h : s.markValid = false) : pollWith m s = s := by
  simp [pollWith, h]

theorem pollWith_of_marked (m : Config.ClampMode) {s : State} (h : s.markValid = true) :
    pollWith m s = commitSlot m s.markSlot s := by simp [pollWith, h]

section
variable (m : Config.ClampMode) (c : Channel) (s : State)

/-- A commit changes the off-times, the transmit bank and the marker only (R34). -/
theorem commitSlot_frame : commitSlot m c s = { s with
    offTime := (commitSlot m c s).offTime, tx := (commitSlot m c s).tx, markValid := false } := rfl

@[simp] theorem commitSlot_offTimeOf_same : (commitSlot m c s).offTimeOf c = biased c (s.admitted m c) := by
  simp [commitSlot, State.mirror]

theorem commitSlot_offTimeOf_other {d : Channel} (h : d ≠ c) : (commitSlot m c s).offTimeOf d = s.offTimeOf d := by
  simp [commitSlot, State.mirror, offTimeOf_commit_other _ _ h]

@[simp] theorem commitSlot_acceptedRaw_same : (commitSlot m c s).acceptedRaw c = s.admitted m c := by
  simp [commitSlot]

theorem commitSlot_acceptedRaw_other {d : Channel} (h : d ≠ c) :
    (commitSlot m c s).acceptedRaw d = s.acceptedRaw d := by
  simp [commitSlot, mirror_acceptedRaw_other _ _ h]

theorem commitSlot_readTx_other {a : Addr} (h : channelOf a ≠ c) : (commitSlot m c s).readTx a = s.readTx a := by
  simp [commitSlot, mirror_readTx_other _ _ h]

@[simp] theorem admitted_trust : s.admitted .trust c = s.pendingRaw c := rfl
end

/-- `POLL` changes the off-times, the transmit bank and the marker only (R34). -/
theorem pollWith_frame (m : Config.ClampMode) (s : State) : pollWith m s = { s with
    offTime := (pollWith m s).offTime, tx := (pollWith m s).tx, markValid := false } := by
  cases h : s.markValid
  · rw [pollWith_of_unmarked m h, ← h]
  · rw [pollWith_of_marked m h]; rfl

/-! ### The requests (no operation reads or writes them) -/

theorem takeEvent_withFeed (e : Event) (s : State) (f : List OpWord) :
    takeEvent e { s with feed := f } = { takeEvent e s with feed := f } := by
  cases e with
  | fs => rfl
  | on =>
    rcases head_cases s.onCounter with ⟨c, hc, -⟩ | ⟨h, -⟩
    · rw [onEvent_of_channel s hc, onEvent_of_channel { s with feed := f } hc]; rfl
    · rw [onEvent_of_empty s h, onEvent_of_empty { s with feed := f } h]; rfl
  | off =>
    rcases head_cases s.offCounter with ⟨c, hc, -⟩ | ⟨h, -⟩
    · rw [offEvent_of_channel s hc, offEvent_of_channel { s with feed := f } hc]; rfl
    · rw [offEvent_of_empty s h, offEvent_of_empty { s with feed := f } h]; rfl

theorem takeEvents_withFeed (es : List Event) (s : State) (f : List OpWord) :
    takeEvents es { s with feed := f } = { takeEvents es s with feed := f } := by
  induction es generalizing s with
  | nil => rfl
  | cons e es ih => rw [takeEvents_cons, takeEvent_withFeed, ih]; rfl

theorem tick_withFeed (s : State) (f : List OpWord) : tick { s with feed := f } = { tick s with feed := f } :=
  takeEvents_withFeed s.raisedByTick (s.setCnt (nextCount s.cnt)) f

theorem pollWith_withFeed (m : Config.ClampMode) (s : State) (f : List OpWord) :
    pollWith m { s with feed := f } = { pollWith m s with feed := f } := by
  rcases Bool.eq_false_or_eq_true s.markValid with h | h
  · rw [pollWith_of_marked m h, pollWith_of_marked m (s := { s with feed := f }) h]; rfl
  · rw [pollWith_of_unmarked m h, pollWith_of_unmarked m (s := { s with feed := f }) h]

/-- Every operation completes, whatever is requested behind it, leaves the requests alone and leaves the block started if
it was. -/
theorem exec_withFeed (i : Instr) (s : State) (f : List OpWord) :
    ∃ t, exec i s = .next t ∧ exec i { s with feed := f } = .next { t with feed := f } ∧ t.feed = s.feed ∧
      (s.started = true → t.started = true) := by
  cases i with
  | tick => exact ⟨_, rfl, congrArg _ (tick_withFeed s f), by simp, by simp⟩
  | wrH a b => exact ⟨_, rfl, rfl, rfl, id⟩
  | wrL a b => exact ⟨_, rfl, rfl, rfl, id⟩
  | rd a => exact ⟨_, rfl, rfl, rfl, id⟩
  | poll =>
    refine ⟨_, rfl, congrArg _ (pollWith_withFeed .trust s f), ?_, ?_⟩
    · rw [show (pollWith Config.clampMode s).feed = s.feed by rw [pollWith_frame]]
    · rw [show (pollWith Config.clampMode s).started = s.started by rw [pollWith_frame]]; exact id
  | evtFs => exact ⟨_, rfl, congrArg _ (takeEvent_withFeed .fs s f), by simp, by simp⟩
  | evtOn => exact ⟨_, rfl, congrArg _ (takeEvent_withFeed .on s f), by simp, by simp⟩
  | evtOff => exact ⟨_, rfl, congrArg _ (takeEvent_withFeed .off s f), by simp, by simp⟩
  | reset => exact ⟨_, rfl, rfl, rfl, fun _ => rfl⟩

/-! ### The step -/

/-- If a step answers a next state, either nothing was requested or the next word decodes to an operation the state
accepts, and the next state is that operation's. -/
theorem step_next_cases {s t : State} (h : step s = .next t) :
    (s.feed = [] ∧ t = s) ∨
    ∃ w rest i, s.feed = w :: rest ∧ decode w = .ok i ∧ s.accepts i = true ∧ exec i { s with feed := rest } = .next t := by
  cases hf : s.feed with
  | nil => simp only [step, State.nextRequest, hf] at h; cases h; exact .inl ⟨rfl, rfl⟩
  | cons w rest =>
    simp only [step, State.nextRequest, hf] at h
    cases hd : decode w with
    | error why => simp [hd] at h
    | ok i =>
      simp only [hd] at h
      cases ha : s.accepts i with
      | false => simp [ha] at h
      | true => simp only [ha, if_true] at h; exact .inr ⟨w, rest, i, rfl, hd, ha, h⟩

end Sys2Proof.Machine
end

