-- ==== Sys2Proof/Laws/Frame.lean ====
section
/-! SUPPORT. What a tick does to the shape of a frame: from a boundary it opens a frame, inside a frame it stays inside,
and the last state of a frame is a boundary. -/

namespace Sys2Proof.Machine

theorem windowChannel_val (t : Count) : (windowChannel t).val = t.toNat / 8192 := by
  have := t.isLt
  simp only [windowChannel, Config.unit, Config.framePeriod]
  omega

/-- A state inside a frame at its last counter value is at a boundary. -/
theorem atBoundary_of_inFrame_last {s : State} (h : inFrame s) (hc : s.cnt.toNat = 32767) : atBoundary s := by
  obtain ⟨h1, h2, h3, h4⟩ := h
  have hw := windowChannel_val s.cnt
  have ho := onTime_toNat s.onCounter
  simp only [queueOk, inWindow, wrapHead_val, Config.unit, Config.framePeriod, Config.rawMax] at h3
  rcases h4 with ⟨_, _, _⟩ | ⟨a, c⟩
  · omega
  · refine ⟨by simpa [Config.framePeriod] using hc, ?_, .inr (Fin.ext (show _ = 4 by omega)), ?_, c⟩
    · rw [h2]; intro e; rw [e] at ho; simp at ho; omega
    · simp only [Config.rawMax, Config.unit, Config.framePeriod]; omega

/-- The tick of a boundary opens a frame. -/
theorem inFrame_tick_of_atBoundary {s : State} (h : atBoundary s) (hw : windowOk s) :
    inFrame (tick s) ∧ (tick s).cnt.toNat = 0 := by
  obtain ⟨h1, h2, _, h4, h5⟩ := h
  have hn : (nextCount s.cnt).toNat = 0 := by rw [nextCount_toNat, h1]; rfl
  have hon : ¬ (0 = s.onCmp.toNat) := fun e => h2 (BitVec.eq_of_toNat_eq (by simpa using e.symm))
  refine ⟨?_, by simpa using hn⟩
  have hwc : windowChannel (nextCount s.cnt) = 0 := Fin.ext (by rw [windowChannel_val, hn]; rfl)
  have ha : advance 0 = 1 := by decide
  have hw0 : wrapHead 0 = 0 := by decide
  have hw1 : wrapHead 1 = 1 := by decide
  rw [tick_eq_ifs]
  simp only [hn, hon, if_true, if_false, frameStart_eq]
  split
  · rw [offEvent_of_channel (c := 0) _ rfl]
    simp [inFrame, hwc, ha, hw1, pinOf_setPin, pinOf_clrPin, h5, queueOk]
    exact hw 1
  · simp [inFrame, hwc, hn, hw0, pinOf_setPin, h5, queueOk]
    omega

/-- The tick of a state inside a frame, before its last counter value, stays inside. -/
theorem inFrame_tick_of_inFrame {s : State} (h : inFrame s) (hw : windowOk s) (hc : s.cnt.toNat ≠ 32767) :
    inFrame (tick s) := by
  obtain ⟨h1, h2, h3, h4⟩ := h
  have hlt := s.cnt.isLt
  have hn : (nextCount s.cnt).toNat = s.cnt.toNat + 1 := by rw [nextCount_toNat]; omega
  have hw0 := windowChannel_val s.cnt
  have hw1 := windowChannel_val (nextCount s.cnt)
  have ho := onTime_toNat s.onCounter
  rw [← h2] at ho
  have hq := h3
  simp only [queueOk, inWindow, wrapHead_val, Config.unit, Config.framePeriod, Config.rawMax] at h3
  have hz : ¬ (s.cnt.toNat + 1 = 0) := by omega
  rw [tick_eq_ifs]
  simp only [hn, hz, if_false]
  by_cases hon : s.cnt.toNat + 1 = s.onCmp.toNat
  · obtain ⟨a, pl⟩ : s.offCounter.val = (windowChannel s.cnt).val + 1 ∧ ∀ c : Channel, s.pinOf c = false := by
      rcases h4 with ⟨_, _, _⟩ | h4
      · omega
      · exact h4
    have hwc : (windowChannel (nextCount s.cnt)).val = s.onCounter.val := by omega
    simp only [hon, if_true]
    rw [onEvent_of_channel (s.setCnt (nextCount s.cnt)) (c := windowChannel (nextCount s.cnt)) hwc]
    simp only [State.setCnt_onCounter]
    generalize hu : ((((s.setCnt (nextCount s.cnt)).setPin (windowChannel (nextCount s.cnt))).setOnCounter
      (advance s.onCounter)).setOnCmp (onTime (advance s.onCounter))) = u
    have huo : u.offCounter = s.offCounter := by simp [← hu]
    split
    · rw [offEvent_of_channel u (c := windowChannel (nextCount s.cnt)) (by rw [huo]; omega)]
      refine ⟨?_, by simp [← hu], ?_, .inr ⟨?_, ?_⟩⟩
      · simp [← hu, advance_val]; omega
      · simpa [queueOk, ← hu] using hw (wrapHead (advance s.offCounter))
      · simp [← hu, advance_val]; omega
      · simp [← hu, pinOf_setPin, pinOf_clrPin, pl]
    · refine ⟨?_, by simp [← hu], by simpa [queueOk, ← hu] using hq, .inl ⟨?_, ?_, ?_⟩⟩
      · simp [← hu, advance_val]; omega
      · simp [← hu]; omega
      · simp [← hu]; omega
      · intro c
        by_cases hcc : c = windowChannel (nextCount s.cnt) <;> simp [← hu, pinOf_setPin, pl, hcc]
  · simp only [hon, if_false]
    have hch : windowChannel (nextCount s.cnt) = windowChannel s.cnt := Fin.ext (by omega)
    split
    · obtain ⟨a, pl⟩ : s.offCounter.val = (windowChannel s.cnt).val ∧
          ∀ c : Channel, s.pinOf c = decide (c = windowChannel s.cnt) := by
        rcases h4 with ⟨a, _, c⟩ | ⟨_, _⟩
        · exact ⟨a, c⟩
        · omega
      rw [offEvent_of_channel (s.setCnt (nextCount s.cnt)) (c := windowChannel s.cnt) a.symm]
      refine ⟨by simpa [hch] using h1, h2, hw _, .inr ⟨?_, ?_⟩⟩
      · simp [advance_val, hch]; omega
      · simp [pinOf_clrPin, pl]
    · refine ⟨by simpa [hch] using h1, h2, hq, ?_⟩
      simp only [State.setCnt_offCounter, State.setCnt_cnt, State.setCnt_offCmp, hch, State.setCnt_pinOf]
      rcases h4 with ⟨a, _, c⟩ | h4
      · exact .inl ⟨a, by omega, c⟩
      · exact .inr h4

end Sys2Proof.Machine
end

