-- ==== Sys2Proof/Laws/PerInstr.lean ====
section
/-! SUPPORT. Statements made per instruction: the encoding of a well-formed operation is spelled by the row of R92 that has
its mnemonic. -/

namespace Sys2Proof.Laws.EncodeSpellsRow

/-- The row with the operation's mnemonic spells its encoding. -/
def Statement (i : Instr) : Prop :=
  i.wellFormed = true → ∃ r ∈ opTable, r.mnemonic = i.mnemonic ∧ r.spells (encode i) = true

/-- A bus write's word agrees with its row on the fixed bits: `OP`, `Z` and `A[0]`. -/
theorem write_fixed_bits (a : Addr) (b : Byte) :
    opWord 0x1#4 a b &&& 0xF900#16 = if a.getLsbD 0 then 0x1100#16 else 0x1000#16 := by
  have h : ∀ a : Addr, (opWord 0x1#4 a 0 &&& 0xF900#16 = if a.getLsbD 0 then 0x1100#16 else 0x1000#16) := by decide
  rw [← h a]
  apply BitVec.eq_of_getLsbD_eq
  intro k hk
  simp only [opWord, BitVec.getLsbD_and, BitVec.getLsbD_append]
  by_cases h8 : k < 8
  · have hm : ∀ k < 8, (0xF900#16).getLsbD k = false := by decide
    simp only [hm k h8, Bool.and_false]
  · simp only [h8, if_false]

theorem tick : Statement .tick := fun _ => ⟨⟨"TICK", 0x0000, 0xFFFF⟩, by simp [opTable], rfl, by decide⟩
theorem wrH (a : Addr) (b : Byte) : Statement (.wrH a b) := fun h =>
  ⟨⟨"WR.H", 0x1000, 0xF900⟩, by simp [opTable], rfl, by
    simpa [OpRow.spells, encode, write_fixed_bits] using (by simpa [Instr.wellFormed] using h : a[0] = false)⟩
theorem wrL (a : Addr) (b : Byte) : Statement (.wrL a b) := fun h =>
  ⟨⟨"WR.L", 0x1100, 0xF900⟩, by simp [opTable], rfl, by
    simpa [OpRow.spells, encode, write_fixed_bits] using (by simpa [Instr.wellFormed] using h : a[0] = true)⟩
theorem rd (a : Addr) : Statement (.rd a) := fun _ =>
  ⟨⟨"RD", 0x2000, 0xF8FF⟩, by simp [opTable], rfl, by revert a; decide⟩
theorem poll : Statement .poll := fun _ => ⟨⟨"POLL", 0x3000, 0xFFFF⟩, by simp [opTable], rfl, by decide⟩
theorem evtFs : Statement .evtFs := fun _ => ⟨⟨"EVT.FS", 0x4000, 0xFFFF⟩, by simp [opTable], rfl, by decide⟩
theorem evtOn : Statement .evtOn := fun _ => ⟨⟨"EVT.ON", 0x5000, 0xFFFF⟩, by simp [opTable], rfl, by decide⟩
theorem evtOff : Statement .evtOff := fun _ => ⟨⟨"EVT.OFF", 0x6000, 0xFFFF⟩, by simp [opTable], rfl, by decide⟩
theorem reset : Statement .reset := fun _ => ⟨⟨"RESET", 0x7000, 0xFFFF⟩, by simp [opTable], rfl, by decide⟩

end Sys2Proof.Laws.EncodeSpellsRow
end

