-- ==== Sys2Proof/Laws/Schedule.lean ====
section
/-! SUPPORT. The first operations of an endless schedule, one at a time. -/

namespace Sys2Proof.Machine

@[simp] theorem firstOps_zero (σ : Schedule) : firstOps σ 0 = [] := rfl

theorem firstOps_succ (σ : Schedule) (n : Nat) : firstOps σ (n + 1) = firstOps σ n ++ [σ n] := by
  simp [firstOps, List.range_succ]

@[simp] theorem runInstrs_singleton (i : Instr) (s : State) : runInstrs [i] s = exec i s := by
  simp only [runInstrs]
  cases exec i s <;> rfl

@[simp] theorem runFor_zero (σ : Schedule) (s : State) : runFor σ 0 s = .next s := rfl

/-- Operation `n` runs in the state the `n` operations before it leave. -/
theorem runFor_succ_of_next {σ : Schedule} {n : Nat} {s u : State} (h : runFor σ n s = .next u) :
    runFor σ (n + 1) s = exec (σ n) u := by
  rw [runFor, firstOps_succ, runInstrs_append_of_next h, runInstrs_singleton]

end Sys2Proof.Machine
end

