-- ==== Sys2Proof/Tests/Slice0.lean ====
section
/-! SUPPORT. Tests. Expected values are those of spec/30_encoding.md R105, R106, spec/95_test_vectors.md (the vector is named
at each test) and the examples of the operation rules. The second half holds, for every statement with hypotheses, a
concrete state and operands that meet them. -/

namespace Sys2Proof.Tests

open Sys2Proof Sys2Proof.Machine

/-! ### Well-formedness: the ill-formed operations are refused by the check -/

theorem test_wf_wrH_odd : (Instr.wrH 1 0x10).wellFormed = false := by decide
theorem test_wf_wrL_even : (Instr.wrL 6 0x10).wellFormed = false := by decide
theorem test_wf_wrH_even : (Instr.wrH 6 0xFF).wellFormed = true := by decide
theorem test_wf_wrL_odd : (Instr.wrL 7 0x00).wellFormed = true := by decide

/-! ### Decoding: words written out from R92, R105 and V1 to V7 -/

theorem test_decode_tick : decode 0b0000000000000000#16 = .ok .tick := by decide
theorem test_decode_wrH : decode 0b0001010000011111#16 = .ok (.wrH 4 0x1F) := by decide
theorem test_decode_wrL : decode 0b0001011110101011#16 = .ok (.wrL 7 0xAB) := by decide
theorem test_decode_rd : decode 0b0010010100000000#16 = .ok (.rd 5) := by decide
theorem test_decode_poll : decode 0b0011000000000000#16 = .ok .poll := by decide
theorem test_decode_evtFs : decode 0b0100000000000000#16 = .ok .evtFs := by decide
theorem test_decode_evtOn : decode 0b0101000000000000#16 = .ok .evtOn := by decide
theorem test_decode_evtOff : decode 0b0110000000000000#16 = .ok .evtOff := by decide
theorem test_decode_reset : decode 0b0111000000000000#16 = .ok .reset := by decide

/-- V7, and R105's reserved words. -/
theorem test_decode_reserved :
    [0x0001, 0x0100, 0x0800, 0x1800, 0x1FFF, 0x2001, 0x2801, 0x3001, 0x3100, 0x4800, 0x70FF, 0x8000, 0xFFFF].map
        (fun n => decode (BitVec.ofNat 16 n)) =
      [.error .bField, .error .aField, .error .zBit, .error .zBit, .error .zBit, .error .bField, .error .zBit,
        .error .bField, .error .aField, .error .zBit, .error .bField, .error .opCode, .error .zBit] := by decide

theorem test_encode : [Instr.wrH 0 0x10, .wrL 1 0, .wrH 4 0x1F, .wrL 5 0xFF, .rd 0, .rd 7].map encode =
    [0x1010, 0x1100, 0x141F, 0x15FF, 0x2000, 0x2700] := by decide

theorem test_decodeTableWord : decodeTableWord 16 0x17AB = some (.wrL 7 0xAB) := by decide
theorem test_decodeTableWord_reserved : decodeTableWord 16 0x3100 = none := by decide
theorem test_traceLine : (Instr.wrH 4 0x1F).traceLine = "WR.H 4, 31" := by decide

/-- V9, R106: the single-channel message. -/
theorem test_message_update : (expandMessage (updateMessage 2 0x1234)).map (List.map encode) = .ok [0x1412, 0x1534] ∧
    updateMessage 2 0x1234 = [0x04, 0x12, 0x34] := by decide

/-- R106: the full refresh. -/
theorem test_message_refresh :
    (expandMessage [0x00, 0x10, 0x00, 0x10, 0x00, 0x10, 0x00, 0x10, 0x00]).map (List.map encode) =
      .ok [0x1010, 0x1100, 0x1210, 0x1300, 0x1410, 0x1500, 0x1610, 0x1700] := by decide

/-! ### Helpers -/

/-- The next state of an operation, the state itself if there is none. -/
def after (i : Instr) (s : State) : State := (nextState (exec i s)).getD s

/-- The state after some operations from reset. -/
def ran (l : List Instr) : State := (nextState (runInstrs l State.reset)).getD State.reset

/-- Reset, with the counter, the heads and the compare registers set. -/
def sched (cnt : Count) (onC offC : QueueHead) (onCmp offCmp : CmpWord) : State :=
  { State.reset with cnt := cnt, onCounter := onC, offCounter := offC, onCmp := onCmp, offCmp := offCmp }

/-! ### Reset -/

theorem test_reset_table : State.reset.offTime.toList = [4096, 12288, 20480, 28672] ∧ State.reset.cnt = 32767 ∧
    State.reset.onCmp = 8192 ∧ State.reset.offCmp = 4096 := by decide

theorem test_reset_banks : (List.range 8).map (fun n => State.reset.rx.read n) =
    [0x10, 0x00, 0x10, 0x00, 0x10, 0x00, 0x10, 0x00] := by decide

/-- V32: `UPDATE 2, 500 ; RESET` is the reset state. -/
theorem test_reset_discards_update : ran (pseudoUpdate 2 500 ++ [.reset]) = State.reset := by decide

theorem test_memory_canonical : (State.reset.rx.write 3 0xFF).write 3 0x00 = [] := by decide

/-! ### One step for each operation -/

/-- V10: a high byte completes nothing. -/
theorem test_wrH : (after (.wrH 2 0x12) State.reset).readRx 2 = 0x12 ∧
    (after (.wrH 2 0x12) State.reset).markValid = false := by decide

theorem test_wrL_marks : (after (.wrL 7 0x55) State.reset).markSlot = 3 ∧
    (after (.wrL 7 0x55) State.reset).markValid = true := by decide

/-- V15: a rewrite replaces the byte. -/
theorem test_wrL_rewrites : (after (.wrL 7 0x66) (after (.wrL 7 0x55) State.reset)).readRx 7 = 0x66 := by decide

/-- V10: the read returns the transmit bank's byte. -/
theorem test_rd : (after (.rd 2) (after (.wrH 2 0x12) State.reset)).reads = [⟨2, 0x10⟩] := by decide

/-- V24: channel 2, raw 4660. -/
theorem test_poll_commit : ((ran (pseudoUpdate 2 4660)).offTimeOf 2, (ran (pseudoUpdate 2 4660)).readTx 4,
    (ran (pseudoUpdate 2 4660)).readTx 5) = (21044, 0x12, 0x34) := by decide

/-- V29b: the bias wraps. -/
theorem test_poll_wraps : (ran (pseudoUpdate 1 65535)).offTimeOf 1 = 8191 := by decide

/-- The bias table of R142. -/
theorem test_bias_table :
    [0, 4096, 8191, 8192, 65535].map (fun n => biased 1 (BitVec.ofNat 16 n)) = [8192, 12288, 16383, 16384, 8191] ∧
    [0, 4096, 8191, 8192, 65535].map (fun n => biased 3 (BitVec.ofNat 16 n)) = [24576, 28672, 32767, 32768, 24575] := by
  decide

/-- V40: the first tick is a frame boundary. -/
theorem test_tick_boundary : (after .tick State.reset).trace = [⟨0, 0, .rise, 0⟩] ∧
    (after .tick State.reset).pin = #v[true, false, false, false] := by decide

/-- V50: `ON` before `OFF` in one tick. -/
theorem test_tick_on_then_off : (after .tick (sched 8191 1 1 8192 8192)).trace =
    [⟨-1, 8192, .rise, 1⟩, ⟨-1, 8192, .fall, 1⟩] := by decide

/-- V53. -/
theorem test_evtFs : (after .evtFs (sched 9 4 2 32768 7)).onCmp = 8192 ∧
    (after .evtFs (sched 9 4 2 32768 7)).offCmp = 7 := by decide

/-- R163, its example. -/
theorem test_evtOn : (after .evtOn (sched 8192 1 1 8192 12288)).pin = #v[false, true, false, false] ∧
    (after .evtOn (sched 8192 1 1 8192 12288)).onCmp = 16384 := by decide

/-- V51: saturation. -/
theorem test_evtOn_saturated : (after .evtOn (sched 0 4 4 7 7)).onCounter = 4 ∧
    (after .evtOn (sched 0 4 4 7 7)).onCmp = 32768 := by decide

/-- R164, its example. -/
theorem test_evtOff : (after .evtOff (sched 4096 1 0 8192 4096)).offCounter = 1 ∧
    (after .evtOff (sched 4096 1 0 8192 4096)).offCmp = 12288 := by decide

/-- V52: after channel 3, channel 0's off-time. -/
theorem test_evtOff_saturated : (after .evtOff (sched 0 4 4 7 7)).offCounter = 4 ∧
    (after .evtOff (sched 0 4 4 7 7)).offCmp = 4096 := by decide

/-- V47: from the end of a frame. -/
theorem test_tick_next_frame : (after .tick (sched 32767 4 4 32768 4096)).onCounter = 1 ∧
    (after .tick (sched 32767 4 4 32768 4096)).offCounter = 0 := by decide

theorem test_step_runs_placed_word : nextState (step (State.reset.withFetchWord 16 0x1412)) =
    some (after (.wrH 4 0x12) State.reset) := by decide

/-- R215: an injected `EVT.ON` inside channel 0's pulse leaves two pins high. -/
theorem test_two_pins_high_is_timing_violation :
    timingViolation 0 [.tick, .evtOn] State.reset (ran [.tick, .evtOn]) :=
  .inr ⟨[.tick], .evtOn, [], ran [.tick, .evtOn], rfl, rfl, by decide, 0, 1, by decide⟩

/-- R248: between two phases the operations are those of the other agents. -/
theorem test_no_atomic_poll_within_phases : Phased.other .poll ⟨State.reset, .latchLow, 0, 0, 0⟩ = none := by decide

/-! ### Witnesses of hypotheses -/

theorem witness_DecodeInvertsEncode : (Instr.wrH 4 0x1F).wellFormed = true ∧ (Instr.wrL 7 0xFF).wellFormed = true := by
  decide

theorem witness_EncodeInvertsDecode : decode 0x1534 = .ok (.wrL 5 0x34) := by decide

theorem witness_WordSpellsExactlyItsTableRow : decode 0x2700 = .ok (.rd 7) ∧
    (⟨"RD", 0x2000, 0xF8FF⟩ : OpRow) ∈ opTable ∧ (⟨"RD", 0x2000, 0xF8FF⟩ : OpRow).spells 0x2700 = true := by decide

/-- A word for each alternative of the list. -/
theorem witness_ReservedWordsAreTheListedOnes :
    (decode 0x8000 = .error .opCode ∧ 8 ≤ (0x8000 : OpWord).toNat / 4096) ∧
    (decode 0x0800 = .error .zBit ∧ (0x0800 : OpWord).toNat / 2048 % 2 = 1) ∧
    (decode 0x7001 = .error .bField ∧ (0x7001 : OpWord).toNat / 4096 ≠ 1 ∧ (0x7001 : OpWord).toNat % 256 ≠ 0) ∧
    (decode 0x2001 = .error .bField ∧ (0x2001 : OpWord).toNat / 4096 = 2 ∧ (0x2001 : OpWord).toNat % 256 ≠ 0) := by
  decide

theorem witness_StepRunsTheDecodedOperation : (Instr.wrH 4 0x12).wellFormed = true ∧ State.reset.started = true ∧
    ({ State.reset with feed := [encode (.wrH 4 0x12), 0x3000] } : State).feed = encode (.wrH 4 0x12) :: [0x3000] := by
  decide

theorem witness_StepsRunTheRequestsInOrder : (∀ i ∈ [Instr.wrL 3 0xFF, .poll, .tick], i.wellFormed = true) ∧
    State.reset.started = true ∧ ({ State.reset with feed := [0x13FF, 0x3000, 0x0000, 0x7000] } : State).feed =
      [Instr.wrL 3 0xFF, .poll, .tick].map encode ++ [0x7000] := by decide

theorem witness_ReservedWordIsRefused : ({ State.reset with feed := [0x8000] } : State).feed = 0x8000 :: [] ∧
    decode 0x8000 = .error .opCode := by decide

/-- One state for each clause. -/
theorem witness_OnlyResetRunsBeforeTheFirstReset :
    (State.reset.beforeReset.present [.reset]).started = false ∧
    (State.reset.beforeReset.present [.reset]).feed = encode .reset :: [] ∧
    (State.reset.beforeReset.present [.poll]).started = false ∧
    (State.reset.beforeReset.present [.poll]).feed = encode .poll :: [] ∧ Instr.poll ≠ .reset := by decide

theorem witness_NoRequestNoChange : State.reset.feed = [] := rfl

/-- A low byte of channel 1, then `POLL` for ever. -/
def pollSchedule : Schedule := fun n => if n = 0 then .wrL 3 9 else .poll

theorem witness_EveryOperationCompletes : banksOk State.reset ∧ (∀ k, (pollSchedule k).wellFormed = true) ∧
    weaklyFair .poll pollSchedule ∧ pollSchedule 0 = .wrL (lowAddr 1) 9 ∧ undisturbedUntilPoll pollSchedule 0 := by
  refine ⟨by decide, fun k => ?_, fun n => ⟨n + 1, by omega, by simp [pollSchedule]⟩, by decide, fun m hm _ => ?_⟩
  · by_cases h : k = 0 <;> simp [pollSchedule, h, Instr.wellFormed]
  · simp [pollSchedule, Nat.pos_iff_ne_zero.1 hm]

theorem witness_WrHStoresTheHighByteAndNothingElse : (0 : Addr).toNat % 2 = 0 ∧ (6 : Addr).toNat % 2 = 0 ∧
    (7 : Addr) ≠ 6 := by decide

theorem witness_WrLStoresTheLowByteAndCompletesTheSlot : (1 : Addr).toNat % 2 = 1 ∧ (7 : Addr).toNat % 2 = 1 ∧
    (6 : Addr) ≠ 7 := by decide

theorem witness_OverwrittenMarkerLosesTheEarlierUpdate : (0 : Channel) ≠ 3 := by decide

theorem witness_FullRefreshCommitsOnlyTheLastSlot : (0 : Channel) ≠ 3 ∧ (2 : Channel) ≠ 3 := by decide

/-- A marked slot, another channel, and an address of another slot. -/
theorem witness_PollCommitsMirrorsAndConsumes : (ran (pseudoSet 1 0x1234)).markValid = true ∧
    (ran (pseudoSet 1 0x1234)).markSlot = 1 ∧ (0 : Channel) ≠ 1 ∧ channelOf 1 ≠ 1 ∧ channelOf 4 ≠ 1 := by decide

theorem witness_PollMirrorsTheRawBytes : (ran (pseudoSet 3 0xFFFF)).markValid = true ∧ channelOf 5 ≠
    (ran (pseudoSet 3 0xFFFF)).markSlot := by decide

theorem witness_PollWithoutMarkerIsIdleAndPollIsIdempotent : State.reset.markValid = false := rfl

theorem witness_InContractBiasPlacesTheChannelBits : (8191 : CmpWord).toNat ≤ 8191 := by decide

theorem witness_WindowOkKeptByEveryInContractOperation : windowOk (ran (pseudoSet 3 8191)) ∧
    ¬ outOfWindow .poll (ran (pseudoSet 3 8191)) ∧
    exec .poll (ran (pseudoSet 3 8191)) = .next (after .poll (ran (pseudoSet 3 8191))) := ⟨by decide, by decide, rfl⟩

theorem witness_ClampKeepsTheWindowUnconditionally : windowOk (ran (pseudoSet 3 0xFFFF)) ∧
    outOfWindow .poll (ran (pseudoSet 3 0xFFFF)) := by decide

theorem witness_RoundTripUnderInterleaving : ∀ i ∈ [Instr.tick, .evtFs] ++ [Instr.evtOn, .evtOff] ++ [Instr.rd 5],
    i = .tick ∨ i = .evtFs ∨ i = .evtOn ∨ i = .evtOff ∨ ∃ a, i = .rd a := by
  simp

/-- Both clauses, at the boundary 0x1F. -/
theorem witness_HostBytesKeepEverySlotInRange : hostBytesOk State.reset ∧ (Instr.wrH 6 0x1F).wellFormed = true ∧
    hostByte (.wrH 6 0x1F) = true ∧ exec (.wrH 6 0x1F) State.reset = .next (after (.wrH 6 0x1F) State.reset) :=
  ⟨by decide, by decide, by decide, rfl⟩

/-- A phased `POLL` about to examine the marker, marked or not. -/
def phasedAt (s : State) : Phased := ⟨s, .examine, 0, 0, 0⟩

theorem witness_UninterruptedPhasedPollIsPoll : (phasedAt State.reset).phase = .examine ∧
    (phasedAt State.reset).main.markValid = false ∧ (phasedAt (ran (pseudoSet 2 7))).main.markValid = true := by decide

theorem witness_PhasedPollCanClearAnUncommittedCompletion : (phasedAt (ran (pseudoSet 2 7))).phase = .examine ∧
    (phasedAt (ran (pseudoSet 2 7))).main.markValid = true ∧
    (Phased.other (.wrL 1 9) (Phased.run 3 (phasedAt (ran (pseudoSet 2 7))))).isSome = true ∧
    (0 : Channel) ≠ (phasedAt (ran (pseudoSet 2 7))).main.markSlot := by decide

/-- The head of the on queue is a channel, or the queue is empty. -/
theorem witness_EvtOnRaisesTheHeadOfTheOnQueue : (3 : Channel).val = (sched 0 3 3 7 7).onCounter.val ∧
    (0 : Channel).val = (sched 0 0 0 7 7).onCounter.val ∧ (sched 0 4 4 7 7).onCounter = 4 := by decide

/-- The head of the off queue is a channel, or the queue is empty; the reload wraps. -/
theorem witness_EvtOffLowersTheHeadOfTheOffQueue : (3 : Channel).val = (sched 0 4 3 7 7).offCounter.val ∧
    (sched 0 4 4 7 7).offCounter = 4 ∧ (0 : Channel).val = (after .evtOff (sched 0 4 3 7 7)).offCounter.val % 4 := by
  decide

theorem witness_CompareOfAFramePeriodOrMoreNeverMatches : 32768 ≤ (sched 0 4 4 32768 65535).onCmp.toNat ∧
    32768 ≤ (sched 0 4 4 32768 65535).offCmp.toNat := by decide

/-- Channel 0 (V49), and channels 1 and 3. -/
theorem witness_ZeroDutyRaisesAndLowersInOneTick :
    ((sched 32767 4 4 32768 0).cnt.toNat = 32767 ∧ (sched 32767 4 4 32768 0).onCmp ≠ 0 ∧
      (sched 32767 4 4 32768 0).offCmp = 0) ∧
    ((sched 8191 1 1 8192 8192).cnt.toNat + 1 = 8192 * (1 : Channel).val ∧
      (sched 8191 1 1 8192 8192).onCmp.toNat = 8192 * (1 : Channel).val ∧
      (sched 8191 1 1 8192 8192).onCounter.val = (1 : Channel).val) ∧
    ((sched 24575 3 3 24576 24576).cnt.toNat + 1 = 8192 * (3 : Channel).val ∧
      (sched 24575 3 3 24576 24576).onCmp.toNat = 8192 * (3 : Channel).val ∧
      (sched 24575 3 3 24576 24576).offCmp.toNat = 8192 * (3 : Channel).val ∧
      (sched 24575 3 3 24576 24576).onCounter.val = (3 : Channel).val ∧
      (sched 24575 3 3 24576 24576).offCounter.val = (3 : Channel).val) := by decide

/-- Rows `FS` (both states), `OFF` (first and last channel), `ON` (first and last channel). -/
theorem witness_TransitionTableRows :
    (sched 0 4 4 7 7).onCounter = 4 ∧ (sched 0 4 4 7 7).offCounter = 4 ∧
    (sched 0 1 0 7 7).onCounter = 1 ∧ (sched 0 1 0 7 7).offCounter = 0 ∧
    (sched 0 1 0 7 7).onCounter.val = (0 : Channel).val + 1 ∧ (sched 0 1 0 7 7).offCounter.val = (0 : Channel).val ∧
    (sched 0 4 3 7 7).onCounter.val = (3 : Channel).val + 1 ∧ (sched 0 4 3 7 7).offCounter.val = (3 : Channel).val ∧
    (sched 0 1 1 7 7).onCounter.val = (1 : Channel).val ∧ (sched 0 1 1 7 7).offCounter.val = (1 : Channel).val ∧
    (sched 0 3 3 7 7).onCounter.val = (3 : Channel).val ∧ (sched 0 3 3 7 7).offCounter.val = (3 : Channel).val := by
  decide

/-- An operation that changes the element, for every column of the matrix. -/
theorem witness_AccessMatrixWrites : (ran (pseudoUpdate 0 7)).offTime ≠ State.reset.offTime ∧
    (after .tick State.reset).cnt ≠ State.reset.cnt ∧ (after .evtOn State.reset).onCounter ≠ State.reset.onCounter ∧
    (after .evtOff State.reset).offCounter ≠ State.reset.offCounter ∧
    (after .evtOn State.reset).onCmp ≠ State.reset.onCmp ∧ (after .evtOff State.reset).offCmp ≠ State.reset.offCmp ∧
    (after .evtFs State.reset).pin ≠ State.reset.pin ∧ (after (.wrH 2 9) State.reset).readRx 2 ≠ State.reset.readRx 2 ∧
    (ran (pseudoUpdate 0 7)).readTx 1 ≠ (ran (pseudoSet 0 7)).readTx 1 ∧
    (after (.wrL 3 9) State.reset).markSlot ≠ State.reset.markSlot := by decide

theorem witness_BusAndSchedulerOperationsCommute : (Instr.wrL 3 9).agent = .bus ∧ (Instr.rd 3).agent = .bus := by decide

theorem witness_SchedulerNeverReadsTheBusSide : Instr.evtOff = .tick ∨ Instr.evtOff = .evtFs ∨ Instr.evtOff = .evtOn ∨
    Instr.evtOff = .evtOff := by decide

/-- A tick that acts on a pin, one that acts on none, and the last action of channel 1 after a rise and a fall. -/
theorem witness_PinChangesAreTraced : Instr.tick ≠ .reset ∧
    exec .tick (sched 8191 1 1 8192 8192) = .next (after .tick (sched 8191 1 1 8192 8192)) ∧
    ([⟨-1, 8192, .rise, 1⟩, ⟨-1, 8192, .fall, 1⟩] : List Edge).getLast? = some ⟨-1, 8192, .fall, 1⟩ ∧
    (after .tick (sched 9 1 1 8192 8192)).trace = [] := ⟨by decide, rfl, by decide, by decide⟩

theorem witness_OffCompareTakesOnlyWholeCommittedValues :
    exec .evtOff State.reset = .next (after .evtOff State.reset) ∧
    (after .evtOff State.reset).offCmp ≠ State.reset.offCmp := ⟨rfl, by decide⟩

/-- A step that changes something. -/
theorem witness_BlockInvKeptByEveryStep : blockInv (State.reset.present [.evtOff]) ∧
    nextState (step (State.reset.present [.evtOff])) = some (after .evtOff State.reset) := by decide

theorem witness_FrameInvKeptByEveryInContractStep : frameInv (State.reset.present [.tick]) ∧
    requestInContract (State.reset.present [.tick]) ∧
    nextState (step (State.reset.present [.tick])) = some (after .tick State.reset) := by
  refine ⟨by decide, ?_, by decide⟩
  intro w rest i hf hd
  cases hf
  cases (show Except.ok Instr.tick = Except.ok i from hd)
  exact ⟨rfl, by decide⟩

/-- Ticks are in contract in every state. -/
theorem inContractRun_ticks (n : Nat) (s : State) : inContractRun (pseudoTicks n) s := by
  induction n generalizing s with
  | zero => trivial
  | succ n ih => exact ⟨⟨rfl, fun h => nomatch h.1⟩, fun t _ => ih t⟩

/-- A run of ticks completes and leaves `off_time` alone. -/
theorem runInstrs_ticks (n : Nat) (s : State) : ∃ t, runInstrs (pseudoTicks n) s = .next t ∧ t.offTime = s.offTime := by
  induction n generalizing s with
  | zero => exact ⟨s, rfl, rfl⟩
  | succ n ih =>
    obtain ⟨t, h, ho⟩ := ih (tick s)
    refine ⟨t, h, ho.trans ?_⟩
    rw [tick_frame]

theorem freeRunning_ticks (n : Nat) : ∀ i ∈ pseudoTicks n, freeRunning i = true ∧ i ≠ .poll := fun i h => by
  cases List.eq_of_mem_replicate h
  exact ⟨rfl, by decide⟩

theorem count_ticks (n : Nat) : (pseudoTicks n).count .tick = n := List.count_replicate_self

theorem witness_InContractRunsNeverOverlapPulses : frameInv State.reset ∧ inContractRun (pseudoTicks 2) State.reset ∧
    runInstrs (pseudoTicks 2) State.reset = .next (ran (pseudoTicks 2)) := ⟨by decide, inContractRun_ticks 2 _, rfl⟩

/-- The smallest raw value out of window, and one that wraps. -/
theorem witness_OutOfWindowPollBreaksTheWindow : outOfWindow .poll (ran (pseudoSet 3 8192)) ∧
    outOfWindow .poll (ran (pseudoSet 1 57344)) := by decide

theorem witness_DesyncIsAnOrphanLowByteOrAnOverrun : writesSlot 0 (.wrL 3 9) = false ∧ Instr.wrL 3 9 ≠ .reset := by decide

theorem witness_FrameShape : atBoundary State.reset ∧ windowOk State.reset ∧ inContractRun (pseudoTicks 32768) State.reset ∧
    (pseudoTicks 32768).count .tick = 32768 :=
  ⟨by decide, by decide, inContractRun_ticks _ _, count_ticks _⟩

theorem witness_NoOutOfWindowNoTimingViolation : atBoundary State.reset ∧ windowOk State.reset ∧ traceOk State.reset ∧
    inContractRun (pseudoTicks 32768) State.reset ∧ (pseudoTicks 32768).count .tick = 32768 ∧
    ∃ t, runInstrs (pseudoTicks 32768) State.reset = .next t :=
  ⟨by decide, by decide, by decide, inContractRun_ticks _ _, count_ticks _, (runInstrs_ticks _ _).imp fun _ h => h.1⟩

/-- Two frames of ticks for the first clause, ticks for ever for the second, with channel 3's off-time. -/
theorem witness_CommittedOffTimesGovernTheSecondFrame :
    (atBoundary State.reset ∧ windowOk State.reset ∧
      (∀ i ∈ pseudoTicks 65536, freeRunning i = true ∧ i ≠ .poll) ∧ (pseudoTicks 65536).count .tick = 65536) ∧
    frameInv State.reset ∧ weaklyFair .tick (fun _ => .tick) ∧
    ∀ n u, runFor (fun _ => .tick) n State.reset = .next u → inContract .tick u ∧ u.offTimeOf 3 = 28672 := by
  refine ⟨⟨by decide, by decide, freeRunning_ticks _, count_ticks _⟩, by decide, fun n => ⟨n, le_rfl, rfl⟩, ?_⟩
  intro n u h
  obtain ⟨t, ht, ho⟩ := runInstrs_ticks n State.reset
  have e : firstOps (fun _ => .tick) n = pseudoTicks n := by simp [firstOps, pseudoTicks]
  rw [runFor, e, ht] at h
  cases h
  refine ⟨⟨rfl, fun h => nomatch h.1⟩, ?_⟩
  rw [State.offTimeOf, ho]
  decide

/-- The end of frame 2 of program P9: `OFF_CMP` holds channel 1's off-time, already passed. -/
theorem witness_AbandonedFallsPersistFrameAfterFrame :
    (sched 32767 4 1 32768 12288).cnt.toNat = 32767 ∧ (sched 32767 4 1 32768 12288).onCmp ≠ 0 ∧
    (sched 32767 4 1 32768 12288).offCmp.toNat < 32768 ∧
    (∀ i ∈ pseudoTicks 32768, freeRunning i = true) ∧ (pseudoTicks 32768).count .tick = 32768 ∧
    ∀ l₁ l₂ u, pseudoTicks 32768 = l₁ ++ l₂ → runInstrs l₁ (sched 32767 4 1 32768 12288) = .next u →
      (u.offTimeOf 1).toNat ≤ (sched 32767 4 1 32768 12288).offCmp.toNat := by
  refine ⟨by decide, by decide, by decide, fun i h => (freeRunning_ticks _ i h).1, count_ticks _, ?_⟩
  intro l₁ l₂ u hl hu
  have h1 : l₁ = pseudoTicks l₁.length := List.eq_replicate_iff.2 ⟨rfl, fun i hi =>
    List.eq_of_mem_replicate (show i ∈ pseudoTicks 32768 by rw [hl]; exact List.mem_append_left _ hi)⟩
  obtain ⟨t, ht, ho⟩ := runInstrs_ticks l₁.length (sched 32767 4 1 32768 12288)
  rw [← h1, hu] at ht
  cases ht
  have hv : (sched 32767 4 1 32768 12288).offTimeOf 1 = 12288 := by decide
  simp only [State.offTimeOf, ho] at hv ⊢
  rw [hv]
  decide

theorem witness_StalledOffQueueNeverLowersAPin : 32768 ≤ (sched 32767 4 4 32768 32768).offCmp.toNat ∧
    Instr.tick ≠ .reset ∧ Instr.tick ≠ .evtOff ∧
    exec .tick (sched 32767 4 4 32768 32768) = .next (after .tick (sched 32767 4 4 32768 32768)) :=
  ⟨by decide, by decide, by decide, rfl⟩

theorem witness_StalledFrameEndsWithAllPinsHigh : (sched 32767 4 4 32768 32768).cnt.toNat = 32767 ∧
    (sched 32767 4 4 32768 32768).onCmp ≠ 0 ∧ 32768 ≤ (sched 32767 4 4 32768 32768).offCmp.toNat ∧
    (∀ i ∈ pseudoTicks 32768, freeRunning i = true) ∧ (pseudoTicks 32768).count .tick = 32768 :=
  ⟨by decide, by decide, by decide, fun i h => (freeRunning_ticks _ i h).1, count_ticks _⟩

/-- The first and the last row of the table. -/
theorem witness_DefaultFrameTable :
    (⟨1, 0, #v[true, false, false, false], 1, 0, 8192, 4096⟩ : FrameRow) ∈ defaultFrameRows ∧
    (⟨32769, 0, #v[true, false, false, false], 1, 0, 8192, 4096⟩ : FrameRow) ∈ defaultFrameRows := by decide

/-- The longest message from address 0, and one byte too many. -/
theorem witness_MessageExpandsToConsecutiveWrites : ([0xAB] : List Byte) ≠ [] ∧
    (7 : Byte).toNat + ([0xAB] : List Byte).length ≤ 8 ∧ ([0xAB] : List Byte)[0]? = some 0xAB ∧
    8 < (7 : Byte).toNat + ([0xAB, 0xCD] : List Byte).length := by decide

/-- `rst` with event code 3; no request at all; every event code without `rst`. -/
theorem witness_PortCycleAdmitsEveryOrderAndResetOverrides :
    (PortCycle.mk (some (4, 9)) none true false (some 3) true).rst = true ∧
    ((PortCycle.mk none none false false none false).rst = false ∧
      (PortCycle.mk none none false false none false).evt ≠ some 3) ∧
    (∀ n : BitVec 2, n ≠ 3 → (PortCycle.mk (some (7, 9)) (some 0) true true (some n) false).rst = false ∧
      (PortCycle.mk (some (7, 9)) (some 0) true true (some n) false).evt ≠ some 3) ∧
    (PortCycle.mk none none false false (some 3) false).evt = some 3 ∧
    (PortCycle.mk none none false false (some 3) false).rst = false := by decide

end Sys2Proof.Tests
end

section
/-! PROOFS. The register file's writes (spec/40_register_file.md R120, R121). -/

namespace Sys2Proof

/-- A concatenation as a number. -/
theorem toNat_append_add {m n : Nat} (x : BitVec m) (y : BitVec n) : (x ++ y).toNat = x.toNat * 2 ^ n + y.toNat := by
  rw [BitVec.toNat_append, ← Nat.shiftLeft_add_eq_or_of_lt y.isLt, Nat.shiftLeft_eq]

/-- The fields of a word as digits of its number (R91). -/
theorem opWord_toNat (op : BitVec 4) (a : Addr) (b : Byte) :
    (opWord op a b).toNat = op.toNat * 0x1000 + a.toNat * 256 + b.toNat := by
  simp only [opWord, toNat_append_add, BitVec.toNat_ofNat]
  omega

namespace Machine

/-- A bus write changes the receive bank only. -/
theorem writeRx_frame (s : State) (a : Addr) (b : Byte) : s.writeRx a b = { s with rx := (s.writeRx a b).rx } := rfl

/-- Settles O13: the operation is one write of the receive bank, so the laws of a read after a write and the write's frame
are the whole effect. The parity of the address is not used (log 13). -/
theorem wrHStoresTheHighByteAndNothingElse : Obligations.WrHStoresTheHighByteAndNothingElse := by
  intro a b s _
  refine ⟨opWord_toNat 0x1 a b, s.writeRx a b, exec_wrH s a b, ?stored, ?others, writeRx_frame s a b⟩
  case stored => exact readRx_writeRx_same s a b
  case others => exact fun _ h => readRx_writeRx_other s b h

/-- Settles O14: the same write followed by the marker, which no read of the receive bank sees. The parity of the address
is not used (log 13). -/
theorem wrLStoresTheLowByteAndCompletesTheSlot : Obligations.WrLStoresTheLowByteAndCompletesTheSlot := by
  intro a b s _
  refine ⟨opWord_toNat 0x1 a b, (s.writeRx a b).setMark (channelOf a), exec_wrL s a b, ?stored, ?others, rfl, ?slot, rfl⟩
  case stored => rw [State.setMark_readRx, readRx_writeRx_same]
  case others =>
    intro x h
    rw [State.setMark_readRx, readRx_writeRx_other s b h]
  case slot => rw [State.setMark_markSlot, channelOf_val]

end Machine

end Sys2Proof
end

section
/-! PROOFS. The update protocol: what `POLL` mirrors (spec/41_update_protocol.md R144, R147) and when it does nothing
(R146). -/

namespace Sys2Proof.Machine

/-- The high byte a commit mirrors is that of the admitted value (R144). -/
theorem commitSlot_readTx_high (m : Config.ClampMode) (c : Channel) (s : State) :
    (commitSlot m c s).readTx (highAddr c) = hiByte (s.admitted m c) := by
  rw [commitSlot, State.clearMark_readTx, mirror_readTx_high]

/-- The low byte a commit mirrors is that of the admitted value (R144). -/
theorem commitSlot_readTx_low (m : Config.ClampMode) (c : Channel) (s : State) :
    (commitSlot m c s).readTx (lowAddr c) = loByte (s.admitted m c) := by
  rw [commitSlot, State.clearMark_readTx, mirror_readTx_low]

/-- `POLL` leaves every byte of the transmit bank outside the marked slot as it was, marked or not (R144, R146). -/
theorem pollWith_readTx_other (m : Config.ClampMode) (s : State) {a : Addr} (h : channelOf a ≠ s.markSlot) :
    (pollWith m s).readTx a = s.readTx a := by
  cases hv : s.markValid
  · rw [pollWith_of_unmarked m hv]
  · rw [pollWith_of_marked m hv, commitSlot_readTx_other m _ s h]

/-- After a `POLL` no slot is marked (R145, R146). -/
theorem pollWith_markValid (m : Config.ClampMode) (s : State) : (pollWith m s).markValid = false := by
  rw [pollWith_frame]

/-- A second `POLL` finds no marker, in either mode (R146). -/
theorem pollWith_pollWith (m : Config.ClampMode) (s : State) : pollWith m (pollWith m s) = pollWith m s :=
  pollWith_of_unmarked m (pollWith_markValid m s)

/-- Settles O22: a marked `POLL` is the commit of the marked slot, whose mirror holds the bytes of the admitted value: the
joined raw bytes under `trust`, their minimum with `RAW_MAX` under `clamp`. -/
theorem pollMirrorsTheRawBytes : Obligations.PollMirrorsTheRawBytes := by
  intro s hv
  refine ⟨exec_poll s, ?high, ?low, ?clamped, fun m a h => pollWith_readTx_other m s h⟩
  case high =>
    rw [pollWith_of_marked .trust hv, commitSlot_readTx_high, admitted_trust, State.pendingRaw, hiByte_join]
  case low =>
    rw [pollWith_of_marked .trust hv, commitSlot_readTx_low, admitted_trust, State.pendingRaw, loByte_join]
  case clamped =>
    rw [pollWith_of_marked .clamp hv, commitSlot_acceptedRaw_same]
    rfl

/-- Settles O23: the first `POLL` consumes the marker, so the second one is an unmarked `POLL`, which does nothing. -/
theorem pollWithoutMarkerIsIdleAndPollIsIdempotent : Obligations.PollWithoutMarkerIsIdleAndPollIsIdempotent := by
  refine ⟨fun s hv => ?idle, fun s => ?idempotent⟩
  case idle => rw [exec_poll, pollWith_of_unmarked .trust hv]
  case idempotent =>
    have second : exec .poll (pollWith .trust s) = .next (pollWith .trust s) := by rw [exec_poll, pollWith_pollWith]
    calc runInstrs [.poll, .poll] s
      _ = runInstrs [.poll] (pollWith .trust s) := runInstrs_cons_of_next (exec_poll s)
      _ = runInstrs [] (pollWith .trust s) := runInstrs_cons_of_next second
      _ = runInstrs [.poll] s := (runInstrs_cons_of_next (exec_poll s)).symm

end Sys2Proof.Machine
end

section
/-! PROOFS. The frame scheduler: what it neither reads nor writes (spec/42_frame_scheduler.md R174). -/

namespace Sys2Proof.Machine

theorem takeEvents_append (es fs : List Event) (s : State) :
    takeEvents (es ++ fs) s = takeEvents fs (takeEvents es s) := List.foldl_append

/-- The events a tick raises before the off event, the last one (R161). -/
def State.raisedBeforeOff (s : State) : List Event :=
  (if fsRaised (nextCount s.cnt) then [Event.fs] else []) ++
    (if cmpRaised (nextCount s.cnt) s.onCmp then [Event.on] else [])

theorem off_notMem_raisedBeforeOff (s : State) : Event.off ∉ s.raisedBeforeOff := by
  simp [State.raisedBeforeOff]

/-- `TICK` in two parts: the handlers before the off handler, then the off handler on a match (R160, R161). -/
theorem tick_eq_off_last (s : State) : tick s =
    if (nextCount s.cnt).toNat = s.offCmp.toNat
      then takeEvent .off (takeEvents s.raisedBeforeOff (s.setCnt (nextCount s.cnt)))
      else takeEvents s.raisedBeforeOff (s.setCnt (nextCount s.cnt)) := by
  rw [tick, show s.raisedByTick = s.raisedBeforeOff ++ _ from rfl, takeEvents_append]
  simp only [cmpRaised_iff]
  split <;> rfl

section
variable (off : Vector CmpWord 4) (rx tx : Memory) (v : Bool) (c : Channel) (o : CmpWord)

/-- Handlers other than the off handler, with other contents of the bus side, `off_time` and `OFF_CMP`: they do the same
to everything else and keep those contents (R174). -/
theorem takeEvents_withBusSide {es : List Event} (h : Event.off ∉ es) (s : State) :
    takeEvents es { s with offTime := off, rx := rx, tx := tx, markValid := v, markSlot := c, offCmp := o } =
      { takeEvents es s with offTime := off, rx := rx, tx := tx, markValid := v, markSlot := c, offCmp := o } := by
  induction es generalizing s with
  | nil => rfl
  | cons e es ih =>
    have he : e ≠ .off := fun q => h (q ▸ List.mem_cons_self)
    have hes : Event.off ∉ es := fun m => h (List.mem_cons_of_mem e m)
    rw [takeEvents_cons, takeEvent_withBusSide, if_neg he, ih hes, ← takeEvents_cons]

/-- `TICK` with other contents of the bus side and `off_time`: only what the off handler reloads follows `off_time`, and
the off handler runs last, so its head is the one the tick leaves (R174). -/
theorem tick_withBusSide (s : State) :
    tick { s with offTime := off, rx := rx, tx := tx, markValid := v, markSlot := c } =
      { tick s with
        offTime := off, rx := rx, tx := tx, markValid := v, markSlot := c,
        offCmp := if (nextCount s.cnt).toNat = s.offCmp.toNat then off[wrapHead (tick s).offCounter] else s.offCmp } := by
  have before := takeEvents_withBusSide off rx tx v c s.offCmp (off_notMem_raisedBeforeOff s) (s.setCnt (nextCount s.cnt))
  simp only [tick_eq_off_last]
  split
  case isTrue => exact (congrArg (takeEvent .off) before).trans (takeEvent_withBusSide .off _ off rx tx v c s.offCmp)
  case isFalse => exact before

end

theorem exec_injected (e : Event) (s : State) : exec e.injected s = .next (takeEvent e s) := by cases e <;> rfl

theorem injected_eq_evtOff_iff (e : Event) : e.injected = .evtOff ↔ e = .off := by cases e <;> decide

theorem injected_ne_tick (e : Event) : e.injected ≠ .tick := by cases e <;> decide

/-- The scheduler's operations are the tick and the injected events (R173). -/
theorem scheduler_cases {j : Instr} (h : j = .tick ∨ j = .evtFs ∨ j = .evtOn ∨ j = .evtOff) :
    j = .tick ∨ ∃ e : Event, j = e.injected := by
  rcases h with rfl | rfl | rfl | rfl
  · exact .inl rfl
  · exact .inr ⟨.fs, rfl⟩
  · exact .inr ⟨.on, rfl⟩
  · exact .inr ⟨.off, rfl⟩

/-- Settles O41: each handler keeps the bus side and `off_time` and reads of them only the entry the off handler reloads;
a tick is a run of handlers with the off handler last. -/
theorem schedulerNeverReadsTheBusSide : Obligations.SchedulerNeverReadsTheBusSide := by
  intro j s hj
  rcases scheduler_cases hj with rfl | ⟨e, rfl⟩
  case inl =>
    refine ⟨tick s, exec_tick s, tick_offTime s, tick_rx s, tick_tx s, tick_markValid s, tick_markSlot s, ?_⟩
    intro off rx tx v c
    rw [exec_tick, tick_withBusSide, nextCount_toNat]
    simp
  case inr =>
    refine ⟨takeEvent e s, exec_injected e s, takeEvent_offTime e s, takeEvent_rx e s, takeEvent_tx e s,
      takeEvent_markValid e s, takeEvent_markSlot e s, ?_⟩
    intro off rx tx v c
    rw [exec_injected, takeEvent_withBusSide e s off rx tx v c s.offCmp]
    simp [injected_eq_evtOff_iff, injected_ne_tick]

end Sys2Proof.Machine
end

section
/-! PROOFS. The operation word: the decoder and the encoder invert each other, the reserved words, the opcode table, and the
number of words that spell an operation (spec/30_encoding.md, sections 2 and 3). -/

namespace Sys2Proof

/-! ### Decode after encode -/

/-- The decoder undoes the encoder on every well-formed operation (R95). -/
theorem decode_encode {i : Instr} (h : i.wellFormed = true) : decode (encode i) = .ok i := by
  cases i with
  | tick => rfl
  | wrH a b =>
    have ha : a.getLsbD 0 = false := by simpa only [Instr.wellFormed, Bool.not_eq_true'] using h
    simp [decode, encode, decodeWrite, -BitVec.getLsbD_eq_getElem, ha]
  | wrL a b =>
    have ha : a.getLsbD 0 = true := h
    simp [decode, encode, decodeWrite, -BitVec.getLsbD_eq_getElem, ha]
  | rd a => simp [decode, encode, decodeRead]
  | poll => rfl
  | evtFs => rfl
  | evtOn => rfl
  | evtOff => rfl
  | reset => rfl

/-- Settles O1: the fields of an encoding are the operation's own, and the parity of a write's address tells `WR.H` from
`WR.L`. -/
theorem decodeInvertsEncode : Obligations.DecodeInvertsEncode := fun _ => decode_encode

/-! ### Encode after decode -/

theorem decodeBare_eq_ok {i j : Instr} {w : OpWord} :
    decodeBare i w = .ok j ↔ aField w = 0 ∧ bField w = 0 ∧ j = i := by
  unfold decodeBare
  by_cases ha : aField w = 0#3 <;> by_cases hb : bField w = 0#8 <;> simp [ha, hb, eq_comm (a := j)]

theorem decodeRead_eq_ok {j : Instr} {w : OpWord} :
    decodeRead w = .ok j ↔ bField w = 0 ∧ j = .rd (aField w) := by
  unfold decodeRead
  by_cases hb : bField w = 0#8 <;> simp [hb, eq_comm (a := j)]

theorem decodeWrite_wellFormed (w : OpWord) : (decodeWrite w).wellFormed = true := by
  unfold decodeWrite
  split
  case isTrue h => exact h
  case isFalse h => simpa only [Instr.wellFormed, Bool.not_eq_true', Bool.not_eq_true] using h

theorem encode_decodeWrite (w : OpWord) : encode (decodeWrite w) = opWord 1 (aField w) (bField w) := by
  unfold decodeWrite
  split <;> rfl

/-- A word that decodes has `Z = 0`, and its fields are those of the encoding of what it decodes to. -/
theorem decode_eq_ok {w : OpWord} {i : Instr} (h : decode w = .ok i) :
    zField w = false ∧ i.wellFormed = true ∧ encode i = opWord (opField w) (aField w) (bField w) := by
  unfold decode at h
  split at h
  case isTrue => cases h
  case isFalse hz =>
    have op {n : Nat} (e : (opField w).toNat = n) : opField w = BitVec.ofNat 4 n := by rw [← e, BitVec.ofNat_toNat, BitVec.setWidth_eq]
    refine ⟨by simpa using hz, ?_⟩
    split at h
    case h_2 e => cases h; exact ⟨decodeWrite_wellFormed w, by rw [encode_decodeWrite, op e]; rfl⟩
    case h_3 e => obtain ⟨hb, rfl⟩ := decodeRead_eq_ok.1 h; exact ⟨rfl, by rw [op e, hb]; rfl⟩
    case h_9 => cases h
    all_goals
      next e =>
        obtain ⟨ha, hb, rfl⟩ := decodeBare_eq_ok.1 h
        exact ⟨rfl, by rw [op e, ha, hb]; rfl⟩

/-- Settles O2: a word with `Z = 0` is put together from its own fields. -/
theorem encodeInvertsDecode : Obligations.EncodeInvertsDecode := by
  intro w i h
  obtain ⟨hz, hwf, he⟩ := decode_eq_ok h
  exact ⟨hwf, he.trans (opWord_fields hz)⟩

/-! ### The reserved words -/

section
variable (w : OpWord)
theorem opField_toNat : (opField w).toNat = w.toNat / 4096 := by
  have := w.isLt
  simp only [opField, BitVec.extractLsb'_toNat, Nat.shiftRight_eq_div_pow]
  omega

theorem aField_toNat : (aField w).toNat = w.toNat / 256 % 8 := by
  simp only [aField, BitVec.extractLsb'_toNat, Nat.shiftRight_eq_div_pow]

theorem bField_toNat : (bField w).toNat = w.toNat % 256 := by
  simp only [bField, BitVec.extractLsb'_toNat, Nat.shiftRight_eq_div_pow]
  omega

theorem zField_eq_true : zField w = true ↔ w.toNat / 2048 % 2 = 1 := by
  rw [zField, BitVec.getLsbD, Nat.testBit_eq_decide_div_mod_eq, decide_eq_true_iff]

theorem aField_ne_zero : aField w ≠ 0 ↔ w.toNat / 256 % 8 ≠ 0 := by
  rw [← aField_toNat, Ne, ← BitVec.toNat_inj]; rfl

theorem bField_ne_zero : bField w ≠ 0 ↔ w.toNat % 256 ≠ 0 := by
  rw [← bField_toNat, Ne, ← BitVec.toNat_inj]; rfl
end

theorem decodeBare_error {i : Instr} {w : OpWord} :
    (∃ why, decodeBare i w = .error why) ↔ aField w ≠ 0 ∨ bField w ≠ 0 := by
  unfold decodeBare
  by_cases ha : aField w = 0#3 <;> by_cases hb : bField w = 0#8 <;> simp [ha, hb]

theorem decodeRead_error {w : OpWord} : (∃ why, decodeRead w = .error why) ↔ bField w ≠ 0 := by
  unfold decodeRead
  by_cases hb : bField w = 0#8 <;> simp [hb]

/-- When the decoder refuses a word, by its fields (R94). -/
theorem decode_error {w : OpWord} : (∃ why, decode w = .error why) ↔
    8 ≤ (opField w).toNat ∨ zField w = true ∨
      ((opField w).toNat ≠ 1 ∧ (opField w).toNat ≠ 2 ∧ (aField w ≠ 0 ∨ bField w ≠ 0)) ∨
      ((opField w).toNat = 2 ∧ bField w ≠ 0) := by
  have hlt := (opField w).isLt
  unfold decode
  split
  case isTrue hz => simp [hz]
  case isFalse hz =>
    split
    case h_2 e => simp [e, hz]
    case h_3 e => rw [decodeRead_error]; simp [e, hz]
    case h_9 n h0 h1 h2 h3 h4 h5 h6 h7 =>
      simp only [imp_false] at h0 h1 h2 h3 h4 h5 h6 h7
      have h8 : 8 ≤ (opField w).toNat := by omega
      simp [h8]
    all_goals
      next e => rw [decodeBare_error]; simp [e, hz]

/-- Settles O4: the decoder's refusals by fields, and the fields as digits of the word's number. -/
theorem reservedWordsAreTheListedOnes : Obligations.ReservedWordsAreTheListedOnes := by
  intro w
  rw [decode_error, opField_toNat, zField_eq_true, aField_ne_zero, bField_ne_zero]

/-! ### The opcode table -/

theorem spells_iff {r : OpRow} {w : OpWord} : r.spells w = true ↔ w &&& r.mask = r.pattern := by
  simp [OpRow.spells]

/-- The encoding of a well-formed operation is spelled by the row with its mnemonic (R92). -/
theorem encode_spelled (i : Instr) : Laws.EncodeSpellsRow.Statement i := by
  cases i with
  | tick => exact Laws.EncodeSpellsRow.tick
  | wrH a b => exact Laws.EncodeSpellsRow.wrH a b
  | wrL a b => exact Laws.EncodeSpellsRow.wrL a b
  | rd a => exact Laws.EncodeSpellsRow.rd a
  | poll => exact Laws.EncodeSpellsRow.poll
  | evtFs => exact Laws.EncodeSpellsRow.evtFs
  | evtOn => exact Laws.EncodeSpellsRow.evtOn
  | evtOff => exact Laws.EncodeSpellsRow.evtOff
  | reset => exact Laws.EncodeSpellsRow.reset

/-- Two different rows disagree on a bit that both fix. -/
theorem opTable_exclusive : ∀ r ∈ opTable, ∀ r' ∈ opTable, r.pattern &&& r'.mask = r'.pattern &&& r.mask → r' = r := by
  decide

/-- The rows are mutually exclusive (R92). -/
theorem row_unique {w : OpWord} {r r' : OpRow} (hr : r ∈ opTable) (hr' : r' ∈ opTable) (h : r.spells w = true)
    (h' : r'.spells w = true) : r' = r := by
  apply opTable_exclusive r hr r' hr'
  rw [← spells_iff.1 h, ← spells_iff.1 h', BitVec.and_assoc, BitVec.and_assoc, BitVec.and_comm r.mask]

/-- What a row fixes of a word, field by field: `Z`, the whole of `OP`, and the masked bits of `A` and `B`. -/
theorem fields_of_spells {w : OpWord} {r : OpRow} (hr : r ∈ opTable) (h : r.spells w = true) :
    zField w = false ∧ opField w = opField r.pattern ∧ aField w &&& aField r.mask = aField r.pattern ∧
      bField w &&& bField r.mask = bField r.pattern := by
  have hm : ∀ r ∈ opTable, zField r.mask = true ∧ zField r.pattern = false ∧ opField r.mask = 0xF := by decide
  obtain ⟨hz, hzp, hop⟩ := hm r hr
  rw [spells_iff] at h
  refine ⟨?_, ?_, ?_, ?_⟩
  · have hand : (zField w && zField r.mask) = zField r.pattern := by
      rw [← h]; exact BitVec.getLsbD_and.symm
    rwa [hz, hzp, Bool.and_true] at hand
  · have hall : opField w &&& 0xF = opField w := BitVec.and_allOnes
    rw [← hall, ← hop, ← h]
    exact BitVec.extractLsb'_and.symm
  · rw [← h]; exact BitVec.extractLsb'_and.symm
  · rw [← h]; exact BitVec.extractLsb'_and.symm

/-- What the rows fix leaves the decoder no reason to refuse: `OP` is below 8, and the fields that must be zero are. -/
theorem opTable_fixes : ∀ r ∈ opTable, (opField r.pattern).toNat < 8 ∧
    (opField r.pattern ≠ 1 → bField r.mask = 0xFF ∧ bField r.pattern = 0) ∧
    (opField r.pattern ≠ 1 → opField r.pattern ≠ 2 → aField r.mask = 7 ∧ aField r.pattern = 0) := by decide

/-- A word that a row spells is not reserved. -/
theorem decodes_of_spells {w : OpWord} {r : OpRow} (hr : r ∈ opTable) (h : r.spells w = true) :
    ∃ i, decode w = .ok i := by
  obtain ⟨hz, hop, ha, hb⟩ := fields_of_spells hr h
  obtain ⟨hlt, hfixB, hfixA⟩ := opTable_fixes r hr
  rw [← hop] at hlt hfixA hfixB
  have zeroB (h1 : opField w ≠ 1) : bField w = 0 := by
    obtain ⟨hm, hp⟩ := hfixB h1
    rwa [hm, hp, show (0xFF : Byte) = BitVec.allOnes 8 from rfl, BitVec.and_allOnes] at hb
  have zeroA (h1 : opField w ≠ 1) (h2 : opField w ≠ 2) : aField w = 0 := by
    obtain ⟨hm, hp⟩ := hfixA h1 h2
    rwa [hm, hp, show (7 : Addr) = BitVec.allOnes 3 from rfl, BitVec.and_allOnes] at ha
  cases hd : decode w with
  | ok i => exact ⟨i, rfl⟩
  | error why =>
    have ne {n : BitVec 4} (hn : (opField w).toNat ≠ n.toNat) : opField w ≠ n := fun e => hn (congrArg _ e)
    rcases decode_error.1 ⟨why, hd⟩ with h8 | hz' | ⟨h1, h2, hab⟩ | ⟨h2, hb'⟩
    · omega
    · simp [hz] at hz'
    · rcases hab with ha' | hb'
      · exact absurd (zeroA (ne h1) (ne h2)) ha'
      · exact absurd (zeroB (ne h1)) hb'
    · exact absurd (zeroB (ne (n := 1) (by rw [h2]; decide))) hb'

/-- Settles O3: what a word decodes to has the row that spells its encoding; a word that a row spells decodes, and the
rows exclude each other. -/
theorem wordSpellsExactlyItsTableRow : Obligations.WordSpellsExactlyItsTableRow := by
  have forward (w : OpWord) (i : Instr) (h : decode w = .ok i) : ∃ r ∈ opTable, r.mnemonic = i.mnemonic ∧
      r.spells w = true ∧ ∀ r' ∈ opTable, r'.spells w = true → r' = r := by
    obtain ⟨hwf, rfl⟩ := encodeInvertsDecode w i h
    obtain ⟨r, hr, hmn, hs⟩ := encode_spelled i hwf
    exact ⟨r, hr, hmn, hs, fun r' hr' hs' => row_unique hr hr' hs hs'⟩
  refine ⟨forward, fun w r hr hs => ?_⟩
  obtain ⟨i, hi⟩ := decodes_of_spells hr hs
  obtain ⟨r', -, hmn, -, huniq⟩ := forward w i hi
  exact ⟨i, hi, by rw [← hmn, huniq r hr hs]⟩

/-! ### How many words spell an operation -/

/-- Every byte. -/
def everyByte : List Byte := (List.finRange 256).map BitVec.ofFin

/-- Every channel with every byte: the operands of the bus writes of one kind. -/
def everyWrite : List (Channel × Byte) := List.finRange 4 ×ˢ everyByte

/-- Every well-formed operation. -/
def everyInstr : List Instr :=
  [.tick] ++ everyWrite.map (fun p => .wrH (Machine.highAddr p.1) p.2) ++
    everyWrite.map (fun p => .wrL (Machine.lowAddr p.1) p.2) ++
    (List.finRange 8).map (fun a => .rd (BitVec.ofFin a)) ++ [.poll, .evtFs, .evtOn, .evtOff, .reset]

theorem ofFin_injective {n : Nat} : Function.Injective (BitVec.ofFin : Fin (2 ^ n) → BitVec n) :=
  fun _ _ h => BitVec.ofFin.inj h

theorem everyByte_nodup : everyByte.Nodup := (List.nodup_finRange 256).map ofFin_injective

theorem mem_everyByte (b : Byte) : b ∈ everyByte := List.mem_map.2 ⟨b.toFin, List.mem_finRange _, rfl⟩

theorem everyWrite_nodup : everyWrite.Nodup := (List.nodup_finRange 4).product everyByte_nodup

theorem mem_everyWrite (p : Channel × Byte) : p ∈ everyWrite :=
  List.mem_product.2 ⟨List.mem_finRange _, mem_everyByte _⟩

theorem everyWrite_length : everyWrite.length = 4 * 256 := by
  rw [everyWrite, List.length_product, everyByte, List.length_map, List.length_finRange, List.length_finRange]

theorem everyInstr_length : everyInstr.length = 2062 := by
  simp [everyInstr, everyWrite_length]

theorem disjoint_map_of_notMem {α β : Type} {f : α → β} {l : List α} {l' : List β} (h : ∀ x, f x ∉ l') :
    (l.map f).Disjoint l' := fun _ hf hl' => by
  obtain ⟨x, -, rfl⟩ := List.mem_map.1 hf
  exact h x hl'

theorem everyInstr_nodup : everyInstr.Nodup := by
  have high : Function.Injective fun p : Channel × Byte => Instr.wrH (Machine.highAddr p.1) p.2 := fun p q h =>
    Prod.ext (Machine.highAddr_inj (Instr.wrH.inj h).1) (Instr.wrH.inj h).2
  have low : Function.Injective fun p : Channel × Byte => Instr.wrL (Machine.lowAddr p.1) p.2 := fun p q h =>
    Prod.ext (Machine.lowAddr_inj (Instr.wrL.inj h).1) (Instr.wrL.inj h).2
  have read : Function.Injective fun a : Fin 8 => Instr.rd (BitVec.ofFin a) := fun a a' h =>
    ofFin_injective (Instr.rd.inj h)
  simp [everyInstr, List.nodup_append', disjoint_map_of_notMem, everyWrite_nodup.map high, everyWrite_nodup.map low,
    (List.nodup_finRange 8).map read]

theorem exists_highAddr (a : Addr) : (∃ c, Machine.highAddr c = a) ↔ a[0] = false := by revert a; decide

theorem exists_lowAddr (a : Addr) : (∃ c, Machine.lowAddr c = a) ↔ a[0] = true := by revert a; decide

theorem mem_everyInstr {i : Instr} : i ∈ everyInstr ↔ i.wellFormed = true := by
  cases i with
  | wrH a b => simp [everyInstr, mem_everyWrite, Instr.wellFormed, exists_highAddr]
  | wrL a b => simp [everyInstr, mem_everyWrite, Instr.wellFormed, exists_lowAddr]
  | rd a => simp [everyInstr, Instr.wellFormed]
  | _ => simp [everyInstr, Instr.wellFormed]

/-- Settles O5: the encodings of the well-formed operations, which are all different because the decoder undoes the
encoder. -/
theorem exactlyThe2062WordsSpellOperations : Obligations.ExactlyThe2062WordsSpellOperations := by
  refine ⟨everyInstr.map encode, everyInstr_nodup.map_on ?inj, by rw [List.length_map, everyInstr_length], fun w => ?mem⟩
  case inj =>
    intro i hi j hj h
    have hdec := decode_encode (mem_everyInstr.1 hi)
    rw [h, decode_encode (mem_everyInstr.1 hj)] at hdec
    exact (Except.ok.inj hdec).symm
  case mem =>
    simp only [List.mem_map, mem_everyInstr]
    exact ⟨fun ⟨i, hwf, he⟩ => ⟨i, he ▸ decode_encode hwf⟩, fun ⟨i, h⟩ => ⟨i, encodeInvertsDecode w i h⟩⟩

/-- Settles O6: each word is decoded as it stands. -/
theorem specWordsDecodeAsListed : Obligations.SpecWordsDecodeAsListed := by
  unfold Obligations.SpecWordsDecodeAsListed
  decide

end Sys2Proof
end

section
/-! PROOFS. Rules that the proofs below share: what a bank's and a register's derived views depend on, what the handlers do
to each field, what an operation other than a tick leaves of the scheduler, and runs that complete. -/

namespace Sys2Proof.Machine

/-! ### Derived views (R32) -/

section
variable {s t : State}
theorem offTimeOf_congr (h : t.offTime = s.offTime) (c : Channel) : t.offTimeOf c = s.offTimeOf c := by
  rw [State.offTimeOf, h, State.offTimeOf]

theorem readRx_congr (h : t.rx = s.rx) (a : Addr) : t.readRx a = s.readRx a := by rw [State.readRx, h, State.readRx]

theorem readTx_congr (h : t.tx = s.tx) (a : Addr) : t.readTx a = s.readTx a := by rw [State.readTx, h, State.readTx]

theorem pendingRaw_congr (h : t.rx = s.rx) (c : Channel) : t.pendingRaw c = s.pendingRaw c := by
  simp only [State.pendingRaw, readRx_congr h]

theorem acceptedRaw_congr (h : t.tx = s.tx) (c : Channel) : t.acceptedRaw c = s.acceptedRaw c := by
  simp only [State.acceptedRaw, readTx_congr h]

theorem pinOf_congr (h : t.pin = s.pin) (c : Channel) : t.pinOf c = s.pinOf c := by rw [State.pinOf, h, State.pinOf]
end

/-! ### The handlers, field by field (R162 to R164) -/

section
variable (s : State) (i : QueueHead) (c : Channel)

@[simp] theorem raiseHead_cnt : (s.raiseHead i).cnt = s.cnt := by rw [raiseHead_frame]
@[simp] theorem raiseHead_frameNumber : (s.raiseHead i).frame = s.frame := by rw [raiseHead_frame]
@[simp] theorem raiseHead_onCounter : (s.raiseHead i).onCounter = s.onCounter := by rw [raiseHead_frame]
@[simp] theorem raiseHead_offCounter : (s.raiseHead i).offCounter = s.offCounter := by rw [raiseHead_frame]
@[simp] theorem raiseHead_offCmp : (s.raiseHead i).offCmp = s.offCmp := by rw [raiseHead_frame]

@[simp] theorem lowerHead_cnt : (s.lowerHead i).cnt = s.cnt := by rw [lowerHead_frame]
@[simp] theorem lowerHead_frameNumber : (s.lowerHead i).frame = s.frame := by rw [lowerHead_frame]
@[simp] theorem lowerHead_onCounter : (s.lowerHead i).onCounter = s.onCounter := by rw [lowerHead_frame]
@[simp] theorem lowerHead_onCmp : (s.lowerHead i).onCmp = s.onCmp := by rw [lowerHead_frame]

/-- The action of raising a head: a rise of the channel at the head, none with the queue empty. -/
theorem raiseHead_trace :
    (s.raiseHead i).trace = s.trace ++ (headChannel i).toList.map fun c => ⟨s.frame, s.cnt, .rise, c⟩ := by
  unfold State.raiseHead
  cases headChannel i <;> simp

theorem lowerHead_trace :
    (s.lowerHead i).trace = s.trace ++ (headChannel i).toList.map fun c => ⟨s.frame, s.cnt, .fall, c⟩ := by
  unfold State.lowerHead
  cases headChannel i <;> simp

theorem raiseHead_pinOf : (s.raiseHead i).pinOf c = if headChannel i = some c then true else s.pinOf c := by
  unfold State.raiseHead
  cases headChannel i <;> simp [pinOf_setPin, eq_comm]

theorem lowerHead_pinOf : (s.lowerHead i).pinOf c = if headChannel i = some c then false else s.pinOf c := by
  unfold State.lowerHead
  cases headChannel i <;> simp [pinOf_clrPin, eq_comm]
end

section
variable (s : State) (c : Channel)

@[simp] theorem takeEvent_fs_onCounter : (takeEvent .fs s).onCounter = 1 := rfl
@[simp] theorem takeEvent_fs_offCounter : (takeEvent .fs s).offCounter = 0 := rfl
@[simp] theorem takeEvent_fs_onCmp : (takeEvent .fs s).onCmp = onTime 1 := rfl
@[simp] theorem takeEvent_fs_offCmp : (takeEvent .fs s).offCmp = s.offCmp := rfl
@[simp] theorem takeEvent_fs_frameNumber : (takeEvent .fs s).frame = s.frame + 1 := rfl
@[simp] theorem takeEvent_fs_trace : (takeEvent .fs s).trace = s.trace ++ [⟨s.frame + 1, s.cnt, .rise, 0⟩] := rfl
@[simp] theorem takeEvent_fs_pinOf : (takeEvent .fs s).pinOf c = if c = 0 then true else s.pinOf c :=
  pinOf_setPin s.openFrame 0 c

@[simp] theorem takeEvent_on_onCounter : (takeEvent .on s).onCounter = advance s.onCounter := rfl
@[simp] theorem takeEvent_on_offCounter : (takeEvent .on s).offCounter = s.offCounter := raiseHead_offCounter s _
@[simp] theorem takeEvent_on_onCmp : (takeEvent .on s).onCmp = onTime (advance s.onCounter) := rfl
@[simp] theorem takeEvent_on_offCmp : (takeEvent .on s).offCmp = s.offCmp := raiseHead_offCmp s _
@[simp] theorem takeEvent_on_frameNumber : (takeEvent .on s).frame = s.frame := raiseHead_frameNumber s _
@[simp] theorem takeEvent_on_trace : (takeEvent .on s).trace =
    s.trace ++ (headChannel s.onCounter).toList.map fun c => ⟨s.frame, s.cnt, .rise, c⟩ := raiseHead_trace s _
@[simp] theorem takeEvent_on_pinOf : (takeEvent .on s).pinOf c =
    if headChannel s.onCounter = some c then true else s.pinOf c := raiseHead_pinOf s _ c

@[simp] theorem takeEvent_off_onCounter : (takeEvent .off s).onCounter = s.onCounter := lowerHead_onCounter s _
@[simp] theorem takeEvent_off_offCounter : (takeEvent .off s).offCounter = advance s.offCounter := rfl
@[simp] theorem takeEvent_off_onCmp : (takeEvent .off s).onCmp = s.onCmp := lowerHead_onCmp s _
@[simp] theorem takeEvent_off_offCmp : (takeEvent .off s).offCmp = s.offTimeOf (wrapHead (advance s.offCounter)) := rfl
@[simp] theorem takeEvent_off_frameNumber : (takeEvent .off s).frame = s.frame := lowerHead_frameNumber s _
@[simp] theorem takeEvent_off_trace : (takeEvent .off s).trace =
    s.trace ++ (headChannel s.offCounter).toList.map fun c => ⟨s.frame, s.cnt, .fall, c⟩ := lowerHead_trace s _
@[simp] theorem takeEvent_off_pinOf : (takeEvent .off s).pinOf c =
    if headChannel s.offCounter = some c then false else s.pinOf c := lowerHead_pinOf s _ c
end

/-! ### What a run of handlers and a tick keep -/

/-- What each handler of a list keeps, the list keeps. -/
theorem takeEvents_keeps {P : State → Prop} {es : List Event} (he : ∀ e ∈ es, ∀ u, P u → P (takeEvent e u)) {s : State}
    (h : P s) : P (takeEvents es s) := by
  induction es generalizing s with
  | nil => exact h
  | cons e es ih =>
    exact ih (fun e' he' => he e' (List.mem_cons_of_mem e he')) (he e List.mem_cons_self s h)

/-- What the counter's advance establishes and each handler keeps holds after a tick. -/
theorem tick_keeps {P : State → Prop} (he : ∀ e u, P u → P (takeEvent e u)) {s : State}
    (h : P (s.setCnt (nextCount s.cnt))) : P (tick s) := takeEvents_keeps (fun e _ => he e) h

/-! ### The bus side under the scheduler's operations (R34, R174) -/

/-- The state with other contents of what the bus operations write. -/
def State.withBus (s : State) (rx : Memory) (v : Bool) (c : Channel) (r : List ReadResult) : State :=
  { s with rx := rx, markValid := v, markSlot := c, reads := r }

section
variable (rx : Memory) (v : Bool) (c : Channel) (r : List ReadResult)

theorem takeEvent_withBus (e : Event) (s : State) :
    takeEvent e (s.withBus rx v c r) = (takeEvent e s).withBus rx v c r := by
  cases e with
  | fs => rfl
  | on => rcases head_cases s.onCounter with ⟨c, -, h⟩ | ⟨-, h⟩ <;>
      simp only [takeEvent, onEvent, State.withBus, State.raiseHead, h] <;> rfl
  | off => rcases head_cases s.offCounter with ⟨c, -, h⟩ | ⟨-, h⟩ <;>
      simp only [takeEvent, offEvent, State.withBus, State.lowerHead, h] <;> rfl

theorem takeEvents_withBus (es : List Event) (s : State) :
    takeEvents es (s.withBus rx v c r) = (takeEvents es s).withBus rx v c r := by
  induction es generalizing s with
  | nil => rfl
  | cons e es ih => rw [takeEvents_cons, takeEvent_withBus, ih, takeEvents_cons]

theorem tick_withBus (s : State) : tick (s.withBus rx v c r) = (tick s).withBus rx v c r :=
  takeEvents_withBus rx v c r s.raisedByTick (s.setCnt (nextCount s.cnt))

end

section
variable (e : Event) (s : State) (a : Addr) (c : Channel)
@[simp] theorem takeEvent_readRx : (takeEvent e s).readRx a = s.readRx a := readRx_congr (takeEvent_rx e s) a
@[simp] theorem takeEvent_readTx : (takeEvent e s).readTx a = s.readTx a := readTx_congr (takeEvent_tx e s) a
@[simp] theorem takeEvent_acceptedRaw : (takeEvent e s).acceptedRaw c = s.acceptedRaw c :=
  acceptedRaw_congr (takeEvent_tx e s) c
@[simp] theorem tick_readRx : (tick s).readRx a = s.readRx a := readRx_congr (tick_rx s) a
@[simp] theorem tick_readTx : (tick s).readTx a = s.readTx a := readTx_congr (tick_tx s) a
end

/-! ### `POLL`, field by field (R34) -/

section
variable (m : Config.ClampMode) (s : State)
@[simp] theorem pollWith_cnt : (pollWith m s).cnt = s.cnt := by rw [pollWith_frame]
@[simp] theorem pollWith_onCounter : (pollWith m s).onCounter = s.onCounter := by rw [pollWith_frame]
@[simp] theorem pollWith_offCounter : (pollWith m s).offCounter = s.offCounter := by rw [pollWith_frame]
@[simp] theorem pollWith_onCmp : (pollWith m s).onCmp = s.onCmp := by rw [pollWith_frame]
@[simp] theorem pollWith_offCmp : (pollWith m s).offCmp = s.offCmp := by rw [pollWith_frame]
@[simp] theorem pollWith_pin : (pollWith m s).pin = s.pin := by rw [pollWith_frame]
@[simp] theorem pollWith_rx : (pollWith m s).rx = s.rx := by rw [pollWith_frame]
@[simp] theorem pollWith_trace : (pollWith m s).trace = s.trace := by rw [pollWith_frame]
@[simp] theorem pollWith_frameNumber : (pollWith m s).frame = s.frame := by rw [pollWith_frame]
@[simp] theorem pollWith_markSlot : (pollWith m s).markSlot = s.markSlot := by rw [pollWith_frame]
@[simp] theorem pollWith_reads : (pollWith m s).reads = s.reads := by rw [pollWith_frame]
@[simp] theorem pollWith_readRx (a : Addr) : (pollWith m s).readRx a = s.readRx a := readRx_congr (pollWith_rx m s) a
end

/-! ### What the bus and the update agent leave of the scheduler (R34) -/

/-- The states agree on what the frame scheduler reads and writes, the off-times aside. -/
structure SameScheduler (s t : State) : Prop where
  cnt : t.cnt = s.cnt
  onCounter : t.onCounter = s.onCounter
  offCounter : t.offCounter = s.offCounter
  onCmp : t.onCmp = s.onCmp
  offCmp : t.offCmp = s.offCmp
  pin : t.pin = s.pin
  trace : t.trace = s.trace
  frame : t.frame = s.frame

theorem pollWith_sameScheduler (m : Config.ClampMode) (s : State) : SameScheduler s (pollWith m s) := by
  constructor <;> simp

/-- Of the free-running operations only the tick touches the scheduler. -/
theorem sameScheduler_of_freeRunning {i : Instr} {s t : State} (hi : freeRunning i = true) (hne : i ≠ .tick)
    (h : exec i s = .next t) : SameScheduler s t := by
  cases i with
  | tick => exact absurd rfl hne
  | wrH a b => cases h; exact ⟨rfl, rfl, rfl, rfl, rfl, rfl, rfl, rfl⟩
  | wrL a b => cases h; exact ⟨rfl, rfl, rfl, rfl, rfl, rfl, rfl, rfl⟩
  | rd a => cases h; exact ⟨rfl, rfl, rfl, rfl, rfl, rfl, rfl, rfl⟩
  | poll => cases h; exact pollWith_sameScheduler .trust s
  | evtFs => cases hi
  | evtOn => cases hi
  | evtOff => cases hi
  | reset => cases hi

/-! ### Runs -/

theorem exec_completes (i : Instr) (s : State) : ∃ t, exec i s = .next t :=
  (exec_withFeed i s []).imp fun _ h => h.1

theorem runInstrs_completes (l : List Instr) (s : State) : ∃ t, runInstrs l s = .next t := by
  induction l generalizing s with
  | nil => exact ⟨s, rfl⟩
  | cons i rest ih =>
    obtain ⟨u, hu⟩ := exec_completes i s
    rw [runInstrs_cons_of_next hu]
    exact ih u

/-- What every operation of a list keeps, the run keeps. -/
theorem runInstrs_keeps {P : State → Prop} {l : List Instr} (hP : ∀ i ∈ l, ∀ u v, exec i u = .next v → P u → P v)
    {s t : State} (h : runInstrs l s = .next t) (hs : P s) : P t := by
  induction l generalizing s with
  | nil => cases h; exact hs
  | cons i rest ih =>
    obtain ⟨u, hu⟩ := exec_completes i s
    rw [runInstrs_cons_of_next hu] at h
    exact ih (fun j hj => hP j (List.mem_cons_of_mem i hj)) h (hP i List.mem_cons_self s u hu hs)

end Sys2Proof.Machine
end

section
/-! PROOFS. The step (spec/20_memory.md section 6; spec/30_encoding.md R94; spec/70_reset_and_hazards.md R242). -/

namespace Sys2Proof.Machine

theorem step_of_decode {s : State} {w : OpWord} {rest : List OpWord} {i : Instr} (hf : s.feed = w :: rest)
    (hd : decode w = .ok i) :
    step s = if s.accepts i then exec i { s with feed := rest } else .refused .beforeReset := by
  simp only [step, State.nextRequest, hf, hd]

/-- A started block accepts every operation. -/
theorem step_of_started {s : State} {i : Instr} {rest : List OpWord} (hwf : i.wellFormed = true)
    (hs : s.started = true) (hf : s.feed = encode i :: rest) : step s = exec i { s with feed := rest } := by
  rw [step_of_decode hf (decode_encode hwf), State.accepts, hs, Bool.true_or, if_pos rfl]

theorem withFetchWord_encode (s : State) (i : Instr) : s.withFetchWord 16 (encode i).toNat = s.pushWord (encode i) := by
  have h : (encode i).toNat % 2 ^ 16 = (encode i).toNat := Nat.mod_eq_of_lt (encode i).isLt
  simp only [State.withFetchWord, tableWord, h, (encode i).isLt, if_true, BitVec.ofNat_toNat, BitVec.setWidth_eq]

/-- Settles O7: the word decodes to its operation, and a started block accepts it. -/
theorem stepRunsTheDecodedOperation : Obligations.StepRunsTheDecodedOperation := by
  refine ⟨fun s i rest hwf hs hf => step_of_started hwf hs hf, fun s i hwf hs => ?_⟩
  rw [withFetchWord_encode, step_of_started (s := s.pushWord (encode i)) (rest := s.feed) hwf hs rfl]
  rfl

theorem core_run_succ_of_next {n : Nat} {s t : State} (h : step s = .next t) :
    Host.Core.run core (n + 1) s = Host.Core.run core n t := by
  have hcore : core.step s = .next t := h
  simp only [Host.Core.run, hcore]

/-- Settles O8, by induction on the requests: no operation reads, adds or removes what is requested behind it. -/
theorem stepsRunTheRequestsInOrder : Obligations.StepsRunTheRequestsInOrder := by
  intro l
  induction l with
  | nil =>
    intro s rest _ _ hf
    rw [show s = { s with feed := rest } by rw [← (show s.feed = rest from hf)]]
    rfl
  | cons i l ih =>
    intro s rest hwf hs hf
    obtain ⟨t, hrest, hfeed, htf, hts⟩ := exec_withFeed i { s with feed := rest } (l.map encode ++ rest)
    have hstep : step s = .next { t with feed := l.map encode ++ rest } :=
      (step_of_started (hwf i List.mem_cons_self) hs hf).trans hfeed
    have hlist := ih { t with feed := l.map encode ++ rest } rest (fun j hj => hwf j (List.mem_cons_of_mem i hj))
      (hts hs) rfl
    have hback : ({ t with feed := rest } : State) = t := by rw [← (show t.feed = rest from htf)]
    rw [runInstrs_cons_of_next hrest, ← hback]
    exact (core_run_succ_of_next hstep).trans hlist

/-- Settles O9: the step carries the decoder's reason. -/
theorem reservedWordIsRefused : Obligations.ReservedWordIsRefused := by
  intro s w rest why hf hd
  simp only [step, State.nextRequest, hf, hd]

/-- Settles O10: a block not started accepts `RESET` alone. -/
theorem onlyResetRunsBeforeTheFirstReset : Obligations.OnlyResetRunsBeforeTheFirstReset := by
  intro s i rest hwf hs hf
  have hstep := step_of_decode hf (decode_encode hwf)
  have hacc : s.accepts i = decide (i = .reset) := by rw [State.accepts, hs, Bool.false_or]
  refine ⟨?reset, ?other⟩
  case reset => rintro rfl; rw [hstep, hacc, decide_eq_true rfl, if_pos rfl]
  case other => intro h; rw [hstep, hacc, decide_eq_false h, if_neg Bool.false_ne_true]

/-- Settles O11: with nothing requested the step answers the state itself. -/
theorem noRequestNoChange : Obligations.NoRequestNoChange := by
  intro s hf
  simp only [step, State.nextRequest, hf]

end Sys2Proof.Machine
end

section
/-! PROOFS. `RESET` (spec/70_reset_and_hazards.md R240). -/

namespace Sys2Proof.Machine

/-- The block after `RESET` is the state of the table, with what the bus master has read and what is requested (R36). -/
theorem resetBlock_eq (s : State) : resetBlock s = { State.reset with reads := s.reads, feed := s.feed } := by
  have h : resetBlock State.reset = State.reset := by decide
  exact congrArg (fun r : State => { r with reads := s.reads, feed := s.feed }) h

theorem resetBlock_resetBlock (s : State) : resetBlock (resetBlock s) = resetBlock s := rfl

/-- Settles O56: the reset values written out by the operation are those of the table. -/
theorem resetRestoresEveryElement : Obligations.ResetRestoresEveryElement := by
  refine ⟨fun s => ?_, by decide, by decide⟩
  rw [exec_reset, resetBlock_eq]

/-- Settles O57: `RESET` reads none of the elements it writes, clears the marker, and leaves `CNT` at its last value. -/
theorem resetIsIdempotentAndStartsAtABoundary : Obligations.ResetIsIdempotentAndStartsAtABoundary := by
  intro s
  have hreset (l : List Instr) : runInstrs (.reset :: l) s = runInstrs l (resetBlock s) :=
    runInstrs_cons_of_next (exec_reset s)
  have hunmarked : pollWith .trust (resetBlock s) = resetBlock s := pollWith_of_unmarked .trust rfl
  have hopen : tick State.reset = { State.reset with
      cnt := 0, pin := #v[true, false, false, false], frame := 0, trace := [⟨0, 0, .rise, 0⟩] } := by decide
  refine ⟨?twice, ?discarded, ?boundary⟩
  case twice => rw [hreset, hreset, runInstrs_singleton, exec_reset, resetBlock_resetBlock]; rfl
  case discarded => rw [hreset, hreset, runInstrs_singleton, exec_poll, hunmarked]; rfl
  case boundary =>
    rw [hreset, runInstrs_singleton, exec_tick, resetBlock_eq]
    refine congrArg Host.Outcome.next ((tick_withFeed (State.reset.withBus [] false 0 s.reads) s.feed).trans ?_)
    rw [tick_withBus, hopen]
    rfl

/-- Settles O58: each predicate is decided on the one state. -/
theorem resetStateMeetsEveryInvariant : Obligations.ResetStateMeetsEveryInvariant := by
  have hw : windowOk State.reset := by decide
  have hb : atBoundary State.reset := by decide
  exact ⟨hw, by decide, hb, by decide, ⟨hw, .inl hb⟩, by decide⟩

end Sys2Proof.Machine
end

section
/-! PROOFS. The windows (spec/10_state.md R37; spec/41_update_protocol.md, "Laws"; spec/60_exceptions.md R214; the host
contract of spec/30_encoding.md R100). -/

namespace Sys2Proof.Machine

theorem inWindow_iff {c : Channel} {v : CmpWord} :
    inWindow c v ↔ c.val * 8192 ≤ v.toNat ∧ v.toNat ≤ c.val * 8192 + 8191 := Iff.rfl

/-- The committed value is in its window exactly when the raw value keeps the contract, the sum wrapping or not (R142). -/
theorem inWindow_biased_iff (c : Channel) (raw : CmpWord) : inWindow c (biased c raw) ↔ raw.toNat ≤ 8191 := by
  have hraw := raw.isLt
  have hc := c.isLt
  rw [inWindow_iff, biased_toNat]
  omega

/-- `WINDOW_OK` is about the off-times only. -/
theorem windowOk_congr {s t : State} (h : t.offTime = s.offTime) (hs : windowOk s) : windowOk t := fun c => by
  rw [offTimeOf_congr h]
  exact hs c

/-- A `POLL` keeps the window when the value it admits keeps the contract. -/
theorem windowOk_pollWith {m : Config.ClampMode} {s : State} (hs : windowOk s)
    (hraw : s.markValid = true → (s.admitted m s.markSlot).toNat ≤ 8191) : windowOk (pollWith m s) := by
  cases hv : s.markValid with
  | false => rwa [pollWith_of_unmarked m hv]
  | true =>
    rw [pollWith_of_marked m hv]
    intro c
    by_cases hc : c = s.markSlot
    · rw [hc, commitSlot_offTimeOf_same]
      exact (inWindow_biased_iff _ _).2 (hraw hv)
    · rw [commitSlot_offTimeOf_other m _ s hc]
      exact hs c

/-- Settles O25: only `POLL` and `RESET` write an off-time. -/
theorem windowOkKeptByEveryInContractOperation : Obligations.WindowOkKeptByEveryInContractOperation := by
  intro i s t hs hout h
  cases i with
  | tick => cases h; exact windowOk_congr (tick_offTime s) hs
  | wrH a b => cases h; exact hs
  | wrL a b => cases h; exact hs
  | rd a => cases h; exact hs
  | poll => cases h; exact windowOk_pollWith hs fun hv => Nat.le_of_not_lt fun hlt => hout ⟨rfl, hv, hlt⟩
  | evtFs => cases h; exact windowOk_congr (takeEvent_offTime .fs s) hs
  | evtOn => cases h; exact windowOk_congr (takeEvent_offTime .on s) hs
  | evtOff => cases h; exact windowOk_congr (takeEvent_offTime .off s) hs
  | reset =>
    cases h
    rw [resetBlock_eq]
    exact resetStateMeetsEveryInvariant.1

/-- Settles O26: the clamped value keeps the contract. -/
theorem clampKeepsTheWindowUnconditionally : Obligations.ClampKeepsTheWindowUnconditionally := by
  intro s hs
  refine windowOk_pollWith hs fun _ => ?_
  have hmin : (s.admitted .clamp s.markSlot).toNat = min (s.pendingRaw s.markSlot).toNat 8191 % 65536 :=
    BitVec.toNat_ofNat _ _
  omega

/-- Settles O47: the commit under `trust` is the biased value, which its window does not hold. -/
theorem outOfWindowPollBreaksTheWindow : Obligations.OutOfWindowPollBreaksTheWindow := by
  intro s ⟨_, hv, hraw⟩
  have hcommit : (pollWith .trust s).offTimeOf s.markSlot = biased s.markSlot (s.pendingRaw s.markSlot) := by
    rw [pollWith_of_marked .trust hv, commitSlot_offTimeOf_same, admitted_trust]
  have hout : ¬ inWindow s.markSlot ((pollWith .trust s).offTimeOf s.markSlot) := by
    rw [hcommit, inWindow_biased_iff]
    exact Nat.not_le_of_lt hraw
  exact ⟨_, exec_poll s, hcommit, hout, fun hw => hout (hw s.markSlot)⟩

/-- Settles O24: with 13 bits of raw duty the bias is added above them. -/
theorem inContractBiasPlacesTheChannelBits : Obligations.InContractBiasPlacesTheChannelBits := by
  intro c raw h
  have hc := c.isLt
  have hnum : (biased c raw).toNat = c.val * 8192 + raw.toNat := by rw [biased_toNat]; omega
  refine ⟨BitVec.eq_of_toNat_eq ?_, hnum⟩
  rw [hnum, toNat_append_add, toNat_append_add, BitVec.extractLsb'_toNat, BitVec.toNat_ofNat,
    BitVec.toNat_ofNat]
  omega

/-! ### The host contract, byte by byte (R98, R100) -/

/-- A high byte up to 0x1F makes a raw value of 13 bits. -/
theorem pendingRaw_le {s : State} (hs : hostBytesOk s) (c : Channel) : (s.pendingRaw c).toNat ≤ 8191 := by
  have hhi := hs c
  have hlo := (s.readRx (lowAddr c)).isLt
  rw [State.pendingRaw, join_toNat]
  omega

theorem hostBytesOk_congr {s t : State} (h : t.rx = s.rx) (hs : hostBytesOk s) : hostBytesOk t := fun c => by
  rw [readRx_congr h]
  exact hs c

theorem hostBytesOk_writeRx {s : State} (hs : hostBytesOk s) {a : Addr} {b : Byte}
    (hb : ∀ c, highAddr c = a → b.toNat ≤ 0x1F) : hostBytesOk (s.writeRx a b) := fun c => by
  by_cases ha : highAddr c = a
  · rw [ha, readRx_writeRx_same]; exact hb c ha
  · rw [readRx_writeRx_other s b ha]; exact hs c

/-- A well-formed `WR.L` stores at no high address (R61). -/
theorem highAddr_ne_of_wrL {a : Addr} {b : Byte} (h : (Instr.wrL a b).wellFormed = true) (c : Channel) :
    highAddr c ≠ a := fun e => by
  have hhigh : isLow a = false := e ▸ isLow_highAddr c
  exact Bool.false_ne_true (hhigh.symm.trans h)

/-- Settles O28: the only operations that store in the receive bank are the writes, `RESET` restores 0x10, and a slot
whose high byte is at most 0x1F holds at most 8191. -/
theorem hostBytesKeepEverySlotInRange : Obligations.HostBytesKeepEverySlotInRange := by
  refine ⟨fun i s t hs hwf hb h => ?kept, fun i s hs => ⟨pendingRaw_le hs, ?inRange⟩⟩
  case kept =>
    cases i with
    | tick => cases h; exact hostBytesOk_congr (tick_rx s) hs
    | wrH a b => cases h; exact hostBytesOk_writeRx hs fun _ _ => of_decide_eq_true hb
    | wrL a b => cases h; exact hostBytesOk_writeRx hs fun c hc => absurd hc (highAddr_ne_of_wrL hwf c)
    | rd a => cases h; exact hs
    | poll => cases h; exact hostBytesOk_congr (pollWith_rx .trust s) hs
    | evtFs => cases h; exact hostBytesOk_congr (takeEvent_rx .fs s) hs
    | evtOn => cases h; exact hostBytesOk_congr (takeEvent_rx .on s) hs
    | evtOff => cases h; exact hostBytesOk_congr (takeEvent_rx .off s) hs
    | reset => cases h; rw [resetBlock_eq]; exact resetStateMeetsEveryInvariant.2.2.2.2.2
  case inRange =>
    rintro ⟨-, -, hraw⟩
    exact absurd (pendingRaw_le hs s.markSlot) (Nat.not_le_of_lt hraw)

end Sys2Proof.Machine
end

section
/-! PROOFS. The invariants that every step keeps (spec/41_update_protocol.md, "Laws"; spec/10_state.md sections 3, 4) and the
one that every in-contract step keeps (spec/42_frame_scheduler.md R169). -/

namespace Sys2Proof.Machine

/-! ### The block invariant -/

/-- A `POLL` keeps both banks in canonical form (log 6). -/
theorem banksOk_pollWith {m : Config.ClampMode} {s : State} (h : banksOk s) : banksOk (pollWith m s) := by
  cases hv : s.markValid with
  | false => rwa [pollWith_of_unmarked m hv]
  | true =>
    rw [pollWith_of_marked m hv]
    exact ⟨h.1, Memory.wf_write _ (lowAddr s.markSlot).isLt (Memory.wf_write _ (highAddr s.markSlot).isLt h.2)⟩

/-- A commit writes the off-time and the readback of one channel together (R149). -/
theorem readbackOk_pollWith {m : Config.ClampMode} {s : State} (h : readbackOk s) : readbackOk (pollWith m s) := by
  cases hv : s.markValid with
  | false => rwa [pollWith_of_unmarked m hv]
  | true =>
    rw [pollWith_of_marked m hv]
    intro c
    by_cases hc : c = s.markSlot
    · rw [hc, commitSlot_offTimeOf_same, commitSlot_acceptedRaw_same]
    · rw [commitSlot_offTimeOf_other m _ s hc, commitSlot_acceptedRaw_other m _ s hc]
      exact h c

theorem readbackOk_congr {s t : State} (ho : t.offTime = s.offTime) (ht : t.tx = s.tx) (h : readbackOk s) :
    readbackOk t := fun c => by
  rw [offTimeOf_congr ho, acceptedRaw_congr ht]
  exact h c

theorem advance_ne_zero (i : QueueHead) : advance i ≠ 0 := by revert i; decide

/-- The handlers of the on queue reload `ON_CMP` with the time of the head they leave, and leave no head at 0 (R25, R27). -/
theorem onQueueOk_takeEvent (e : Event) {s : State} (h : onQueueOk s) : onQueueOk (takeEvent e s) := by
  cases e with
  | fs => exact ⟨Fin.zero_ne_one.symm, rfl⟩
  | on => exact ⟨advance_ne_zero _, rfl⟩
  | off => simpa [onQueueOk] using h

theorem traceOk_append {s : State} {es : List Edge} {t : State} (h : traceOk s) (ht : t.trace = s.trace ++ es)
    (hle : s.frame ≤ t.frame) (hes : ∀ e ∈ es, e.frame ≤ t.frame) : traceOk t := by
  intro e he
  rw [ht, List.mem_append] at he
  rcases he with he | he
  · exact le_trans (h e he) hle
  · exact hes e he

/-- A handler traces its action in the frame it leaves (R167). -/
theorem traceOk_takeEvent (e : Event) {s : State} (h : traceOk s) : traceOk (takeEvent e s) := by
  cases e with
  | fs => exact traceOk_append h (takeEvent_fs_trace s) (by simp) (by simp)
  | on => exact traceOk_append h (takeEvent_on_trace s) (by simp) (by simp)
  | off => exact traceOk_append h (takeEvent_off_trace s) (by simp) (by simp)

/-- Every operation keeps both banks in canonical form. -/
theorem banksOk_exec {i : Instr} {s t : State} (hs : banksOk s) (h : exec i s = .next t) : banksOk t := by
  have event (e : Event) : banksOk (takeEvent e s) := by rwa [banksOk, takeEvent_rx, takeEvent_tx]
  cases i with
  | tick => cases h; rwa [banksOk, tick_rx, tick_tx]
  | wrH a b => cases h; exact ⟨Memory.wf_write b a.isLt hs.1, hs.2⟩
  | wrL a b => cases h; exact ⟨Memory.wf_write b a.isLt hs.1, hs.2⟩
  | rd a => cases h; exact hs
  | poll => cases h; exact banksOk_pollWith hs
  | evtFs => cases h; exact event .fs
  | evtOn => cases h; exact event .on
  | evtOff => cases h; exact event .off
  | reset => cases h; rw [resetBlock_eq]; exact ⟨rfl, rfl⟩

theorem blockInv_takeEvent (e : Event) {s : State} (h : blockInv s) : blockInv (takeEvent e s) := by
  obtain ⟨hb, hr, hq, ht⟩ := h
  refine ⟨?_, readbackOk_congr (takeEvent_offTime e s) (takeEvent_tx e s) hr, onQueueOk_takeEvent e hq,
    traceOk_takeEvent e ht⟩
  rwa [banksOk, takeEvent_rx, takeEvent_tx]

/-- Every operation keeps the block invariant. -/
theorem blockInv_exec {i : Instr} {s t : State} (hs : blockInv s) (h : exec i s = .next t) : blockInv t := by
  have hbanks : banksOk t := banksOk_exec hs.1 h
  have ⟨_, hr, hq, ht⟩ := hs
  cases i with
  | tick => cases h; exact tick_keeps (fun e _ => blockInv_takeEvent e) hs
  | wrH a b => cases h; exact ⟨hbanks, hr, hq, ht⟩
  | wrL a b => cases h; exact ⟨hbanks, hr, hq, ht⟩
  | rd a => cases h; exact hs
  | poll =>
    cases h
    refine ⟨hbanks, readbackOk_pollWith hr, ?_, traceOk_append ht (es := []) (by simp) (by simp) (by simp)⟩
    simpa [onQueueOk] using hq
  | evtFs => cases h; exact blockInv_takeEvent .fs hs
  | evtOn => cases h; exact blockInv_takeEvent .on hs
  | evtOff => cases h; exact blockInv_takeEvent .off hs
  | reset =>
    cases h
    obtain ⟨-, -, -, hreset, -, -⟩ := resetStateMeetsEveryInvariant
    rw [resetBlock_eq]
    exact hreset

/-- Settles O44: a step is the operation of the next request, which the invariant does not mention. -/
theorem blockInvKeptByEveryStep : Obligations.BlockInvKeptByEveryStep := by
  intro s t hs h
  rcases step_next_cases h with ⟨-, rfl⟩ | ⟨w, rest, i, -, -, -, hexec⟩
  · exact hs
  · exact blockInv_exec (s := { s with feed := rest }) hs hexec

/-! ### The frame invariant -/

section
variable {s t : State} (h : SameScheduler s t)
include h

theorem atBoundary_of_sameScheduler (hs : atBoundary s) : atBoundary t := by
  obtain ⟨hcnt, -, hoff, hon, hcmp, hpin, -, -⟩ := h
  simpa only [atBoundary, State.pinOf, hcnt, hoff, hon, hcmp, hpin] using hs

theorem inFrame_of_sameScheduler (hs : inFrame s) : inFrame t := by
  obtain ⟨hcnt, honc, hoff, hon, hcmp, hpin, -, -⟩ := h
  simpa only [inFrame, queueOk, State.pinOf, hcnt, honc, hoff, hon, hcmp, hpin] using hs
end

theorem windowOk_exec {i : Instr} {s t : State} (hs : windowOk s) (hi : inContract i s) (h : exec i s = .next t) :
    windowOk t := windowOkKeptByEveryInContractOperation i s t hs hi.2 h

/-- A tick takes a boundary into the frame, and the last state inside a frame is a boundary. -/
theorem frameInv_tick {s : State} (hs : frameInv s) : frameInv (tick s) := by
  obtain ⟨hw, hshape⟩ := hs
  refine ⟨windowOk_congr (tick_offTime s) hw, ?_⟩
  rcases hshape with hb | hf
  · exact .inr (inFrame_tick_of_atBoundary hb hw).1
  · by_cases hlast : s.cnt.toNat = 32767
    · exact .inr (inFrame_tick_of_atBoundary (atBoundary_of_inFrame_last hf hlast) hw).1
    · exact .inr (inFrame_tick_of_inFrame hf hw hlast)

/-- Every in-contract operation keeps the frame invariant. -/
theorem frameInv_exec {i : Instr} {s t : State} (hs : frameInv s) (hi : inContract i s) (h : exec i s = .next t) :
    frameInv t := by
  by_cases hne : i = .tick
  · subst hne
    cases h
    exact frameInv_tick hs
  · have hsame := sameScheduler_of_freeRunning hi.1 hne h
    refine ⟨windowOk_exec hs.1 hi h, ?_⟩
    exact hs.2.imp (atBoundary_of_sameScheduler hsame) (inFrame_of_sameScheduler hsame)

/-- Settles O45: a step is the operation of the next request, which is in contract. -/
theorem frameInvKeptByEveryInContractStep : Obligations.FrameInvKeptByEveryInContractStep := by
  intro s t hs hreq h
  rcases step_next_cases h with ⟨-, rfl⟩ | ⟨w, rest, i, hf, hd, -, hexec⟩
  · exact hs
  · exact frameInv_exec (s := { s with feed := rest }) hs (hreq w rest i hf hd) hexec

/-- What every in-contract operation keeps holds after an in-contract run. -/
theorem inContractRun_keeps {P : State → Prop} (hP : ∀ i u v, P u → inContract i u → exec i u = .next v → P v)
    {l : List Instr} {s t : State} (hs : P s) (hl : inContractRun l s) (h : runInstrs l s = .next t) : P t := by
  induction l generalizing s with
  | nil => cases h; exact hs
  | cons i rest ih =>
    obtain ⟨hi, hrest⟩ := hl
    obtain ⟨u, hu⟩ := exec_completes i s
    rw [runInstrs_cons_of_next hu] at h
    exact ih (hP i s u hs hi hu) (hrest u hu) h

theorem frameInv_run {l : List Instr} {s t : State} (hs : frameInv s) (hl : inContractRun l s)
    (h : runInstrs l s = .next t) : frameInv t := inContractRun_keeps (fun _ _ _ => frameInv_exec) hs hl h

/-- Under the frame invariant the pins that are high are one channel's at most. -/
theorem not_twoPinsHigh_of_frameInv {s : State} (hs : frameInv s) : ¬ twoPinsHigh s := by
  rintro ⟨c, d, hne, hc, hd⟩
  obtain ⟨-, ⟨-, -, -, -, hlow⟩ | ⟨-, -, -, ⟨-, -, hpin⟩ | ⟨-, hlow⟩⟩⟩ := hs
  · simp [hlow c] at hc
  · rw [hpin, decide_eq_true_eq] at hc hd
    exact hne (hc.trans hd.symm)
  · simp [hlow c] at hc

/-- At a boundary the off-compare holds an off-time of channel 0, the next to fall. -/
theorem queueOk_of_atBoundary {s : State} (hs : atBoundary s) : queueOk s := by
  obtain ⟨-, -, hoff, hcmp, -⟩ := hs
  have hwrap : (wrapHead s.offCounter).val = 0 := by rcases hoff with h | h <;> rw [h] <;> rfl
  rw [queueOk, inWindow_iff, hwrap]
  rw [Nat.zero_mul, Nat.zero_add]
  exact ⟨Nat.zero_le _, hcmp⟩

theorem queueOk_of_frameInv {s : State} (hs : frameInv s) : queueOk s := by
  obtain ⟨-, hb | ⟨-, -, hq, -⟩⟩ := hs
  · exact queueOk_of_atBoundary hb
  · exact hq

/-- Settles O46: the frame invariant holds after every in-contract run and says so. -/
theorem inContractRunsNeverOverlapPulses : Obligations.InContractRunsNeverOverlapPulses := by
  intro l s t hs hl h
  have ht := frameInv_run hs hl h
  exact ⟨not_twoPinsHigh_of_frameInv ht, queueOk_of_frameInv ht, ht.1⟩

end Sys2Proof.Machine
end

section
/-! PROOFS. What an operation adds to the edge trace and what that says of the pins (spec/00_scope.md section 4), what
`OFF_CMP` can hold, and the stall (spec/70_reset_and_hazards.md R249, R250). -/

namespace Sys2Proof.Machine

/-! ### Pin changes are traced -/

/-- The level of channel `c` after some traced actions, from a level before them. -/
def levelAfter (c : Channel) (es : List Edge) (level : Bool) : Bool :=
  es.foldl (fun l e => if e.channel = c then decide (e.kind = .rise) else l) level

theorem levelAfter_append (c : Channel) (es es' : List Edge) (l : Bool) :
    levelAfter c (es ++ es') l = levelAfter c es' (levelAfter c es l) := List.foldl_append

theorem levelAfter_of_no_action {c : Channel} {es : List Edge} (l : Bool) (h : ∀ e ∈ es, e.channel ≠ c) :
    levelAfter c es l = l := by
  induction es with
  | nil => rfl
  | cons e es ih =>
    have hes := ih fun e' he' => h e' (List.mem_cons_of_mem e he')
    rwa [levelAfter, List.foldl_cons, if_neg (h e List.mem_cons_self)]

theorem levelAfter_of_last {c : Channel} {es : List Edge} {e : Edge} (l : Bool)
    (h : (es.filter fun e => decide (e.channel = c)).getLast? = some e) :
    levelAfter c es l = decide (e.kind = .rise) := by
  induction es using List.reverseRecOn with
  | nil => simp at h
  | append_singleton es a ih =>
    rw [levelAfter_append]
    by_cases ha : a.channel = c
    · obtain rfl : a = e := by simpa [List.filter_append, ha] using h
      simp [levelAfter, ha]
    · have hes := ih (by simpa [List.filter_append, ha] using h)
      rw [hes]
      exact if_neg ha

/-- The actions `es` lead from `s` to `t`: they are added to the trace, carry the counter value and the frame number of `t`,
and the pins follow them. -/
structure Traced (s t : State) (es : List Edge) : Prop where
  trace : t.trace = s.trace ++ es
  stamp : ∀ e ∈ es, e.time = t.cnt ∧ e.frame = t.frame
  pin : ∀ c, t.pinOf c = levelAfter c es (s.pinOf c)

theorem traced_nil {s t : State} (htrace : t.trace = s.trace) (hpin : t.pin = s.pin) : Traced s t [] where
  trace := by rw [htrace, List.append_nil]
  stamp := fun _ h => absurd h List.not_mem_nil
  pin := pinOf_congr hpin

/-- Actions one after another, in one frame and at one counter value. -/
theorem Traced.trans {s t u : State} {es es' : List Edge} (h : Traced s t es) (h' : Traced t u es')
    (hcnt : u.cnt = t.cnt) (hframe : u.frame = t.frame) : Traced s u (es ++ es') where
  trace := by rw [h'.trace, h.trace, List.append_assoc]
  stamp := fun e he => by
    rcases List.mem_append.1 he with he | he
    · rw [hcnt, hframe]; exact h.stamp e he
    · exact h'.stamp e he
  pin := fun c => by rw [h'.pin, h.pin, levelAfter_append]

/-- The action a handler traces, none with its queue empty (R162 to R164). -/
def Event.edges (e : Event) (s : State) : List Edge :=
  match e with
  | .fs => [⟨s.frame + 1, s.cnt, .rise, 0⟩]
  | .on => (headChannel s.onCounter).toList.map fun c => ⟨s.frame, s.cnt, .rise, c⟩
  | .off => (headChannel s.offCounter).toList.map fun c => ⟨s.frame, s.cnt, .fall, c⟩

theorem Event.edges_length_le (e : Event) (s : State) : (e.edges s).length ≤ 1 := by
  cases e with
  | fs => exact le_rfl
  | on => cases h : headChannel s.onCounter <;> simp [Event.edges, h]
  | off => cases h : headChannel s.offCounter <;> simp [Event.edges, h]

theorem traced_takeEvent (e : Event) (s : State) : Traced s (takeEvent e s) (e.edges s) := by
  cases e with
  | fs => constructor <;> simp [Event.edges, levelAfter, eq_comm]
  | on => cases h : headChannel s.onCounter <;> constructor <;> simp [Event.edges, levelAfter, h]
  | off => cases h : headChannel s.offCounter <;> constructor <;> simp [Event.edges, levelAfter, h]

theorem takeEvent_frameNumber {e : Event} (h : e ≠ .fs) (s : State) : (takeEvent e s).frame = s.frame := by
  cases e with
  | fs => exact absurd rfl h
  | on => exact takeEvent_on_frameNumber s
  | off => exact takeEvent_off_frameNumber s

/-- A handler that a tick's test lets run adds one action at most. -/
theorem traced_if (p : Prop) [Decidable p] (e : Event) (s : State) :
    ∃ es, es.length ≤ 1 ∧ Traced s (if p then takeEvent e s else s) es := by
  by_cases hp : p
  · rw [if_pos hp]; exact ⟨_, e.edges_length_le s, traced_takeEvent e s⟩
  · rw [if_neg hp]; exact ⟨[], Nat.zero_le _, traced_nil rfl rfl⟩

theorem ite_takeEvent_cnt (p : Prop) [Decidable p] (e : Event) (s : State) :
    (if p then takeEvent e s else s).cnt = s.cnt := by split <;> simp

theorem ite_takeEvent_frameNumber (p : Prop) [Decidable p] {e : Event} (h : e ≠ .fs) (s : State) :
    (if p then takeEvent e s else s).frame = s.frame := by
  split
  · exact takeEvent_frameNumber h s
  · rfl

/-- Of a tick's three handlers only the first opens a frame, so the actions of all three carry the same stamp. -/
theorem traced_tick (s : State) : ∃ es, es.length ≤ 3 ∧ Traced s (tick s) es := by
  let n := nextCount s.cnt
  let u₁ := if n.toNat = 0 then takeEvent .fs (s.setCnt n) else s.setCnt n
  let u₂ := if n.toNat = s.onCmp.toNat then takeEvent .on u₁ else u₁
  obtain ⟨es₁, h₁, t₁⟩ := traced_if (n.toNat = 0) .fs (s.setCnt n)
  obtain ⟨es₂, h₂, t₂⟩ := traced_if (n.toNat = s.onCmp.toNat) .on u₁
  obtain ⟨es₃, h₃, t₃⟩ := traced_if (n.toNat = s.offCmp.toNat) .off u₂
  have h₁₂ := t₁.trans t₂ (ite_takeEvent_cnt _ _ _) (ite_takeEvent_frameNumber _ (by decide) _)
  have h := h₁₂.trans t₃ (ite_takeEvent_cnt _ _ _) (ite_takeEvent_frameNumber _ (by decide) _)
  refine ⟨es₁ ++ es₂ ++ es₃, by simp only [List.length_append]; omega, ?_⟩
  rw [tick_eq_ifs]
  exact ⟨h.trace, h.stamp, h.pin⟩

/-- Every operation but `RESET` traces its pin changes. -/
theorem traced_exec {i : Instr} {s t : State} (hi : i ≠ .reset) (h : exec i s = .next t) :
    ∃ es, es.length ≤ 3 ∧ Traced s t es := by
  have one (e : Event) : ∃ es, es.length ≤ 3 ∧ Traced s (takeEvent e s) es :=
    ⟨_, (e.edges_length_le s).trans (by decide), traced_takeEvent e s⟩
  have none {t : State} (htrace : t.trace = s.trace) (hpin : t.pin = s.pin) : ∃ es, es.length ≤ 3 ∧ Traced s t es :=
    ⟨[], Nat.zero_le _, traced_nil htrace hpin⟩
  cases i with
  | tick => cases h; exact traced_tick s
  | wrH a b => cases h; exact none rfl rfl
  | wrL a b => cases h; exact none rfl rfl
  | rd a => cases h; exact none rfl rfl
  | poll => cases h; exact none (pollWith_trace .trust s) (pollWith_pin .trust s)
  | evtFs => cases h; exact one .fs
  | evtOn => cases h; exact one .on
  | evtOff => cases h; exact one .off
  | reset => exact absurd rfl hi

/-- Settles O42: the pins follow the added actions, so a channel without one keeps its level and one with some has the level
of its last. -/
theorem pinChangesAreTraced : Obligations.PinChangesAreTraced := by
  intro i s t hi h
  obtain ⟨es, hlen, htrace, hstamp, hpin⟩ := traced_exec hi h
  refine ⟨es, htrace, hlen, hstamp, fun c => ⟨fun hno => ?_, fun e he => ?_⟩⟩
  · rw [hpin, levelAfter_of_no_action _ hno]
  · rw [hpin, levelAfter_of_last _ he]

/-- Without a `RESET` a run only adds to the trace. -/
theorem trace_prefix_of_run {l : List Instr} (hl : ∀ i ∈ l, i ≠ .reset) {s t : State} (h : runInstrs l s = .next t) :
    s.trace <+: t.trace := by
  refine runInstrs_keeps (P := fun u => s.trace <+: u.trace) (fun i hi u v huv hu => ?_) h List.prefix_rfl
  obtain ⟨es, -, htrace, -, -⟩ := traced_exec (hl i hi) huv
  exact hu.trans ⟨es, htrace.symm⟩

/-! ### What `OFF_CMP` can hold (R249) -/

/-- Settles O43: only `EVT.OFF` and `RESET` load `OFF_CMP`, each with one off-time, and the handlers leave the off-times as
they are. -/
theorem offCompareTakesOnlyWholeCommittedValues : Obligations.OffCompareTakesOnlyWholeCommittedValues := by
  intro i s t h
  have event (e : Event) (u : State) (hu : u.offCmp = s.offCmp ∨ ∃ c, u.offCmp = u.offTimeOf c) :
      (takeEvent e u).offCmp = s.offCmp ∨ ∃ c, (takeEvent e u).offCmp = (takeEvent e u).offTimeOf c := by
    simp only [takeEvent_offTimeOf]
    cases e with
    | fs => exact hu
    | on => rwa [takeEvent_on_offCmp]
    | off => exact .inr ⟨_, rfl⟩
  cases i with
  | tick => cases h; exact tick_keeps event (.inl rfl)
  | wrH a b => cases h; exact .inl rfl
  | wrL a b => cases h; exact .inl rfl
  | rd a => cases h; exact .inl rfl
  | poll => cases h; exact .inl (pollWith_offCmp .trust s)
  | evtFs => cases h; exact event .fs s (.inl rfl)
  | evtOn => cases h; exact event .on s (.inl rfl)
  | evtOff => cases h; exact event .off s (.inl rfl)
  | reset =>
    cases h
    rw [resetBlock_eq]
    exact .inr ⟨0, show State.reset.offCmp = State.reset.offTimeOf 0 by decide⟩

/-! ### The stall (R250) -/

/-- From `s` to `u` no pin has been lowered and `OFF_CMP` has stayed. -/
structure OnlyRaised (s u : State) : Prop where
  offCmp : u.offCmp = s.offCmp
  pin : ∀ c, s.pinOf c = true → u.pinOf c = true
  trace : ∃ es : List Edge, u.trace = s.trace ++ es ∧ ∀ e ∈ es, e.kind = .rise

theorem onlyRaised_of_same {s u : State} (hcmp : u.offCmp = s.offCmp) (hpin : u.pin = s.pin)
    (htrace : u.trace = s.trace) : OnlyRaised s u :=
  ⟨hcmp, fun c => by rw [pinOf_congr hpin]; exact id, [], by rw [htrace, List.append_nil], by simp⟩

/-- The handlers of `EVT.FS` and `EVT.ON` only raise pins. -/
theorem onlyRaised_takeEvent {e : Event} (he : e ≠ .off) {s u : State} (h : OnlyRaised s u) :
    OnlyRaised s (takeEvent e u) := by
  obtain ⟨hcmp, hpin, es, htrace, hrise⟩ := h
  cases e with
  | fs =>
    refine ⟨hcmp, fun c hc => ?_, es ++ [⟨u.frame + 1, u.cnt, .rise, 0⟩], ?_, ?_⟩
    · rw [takeEvent_fs_pinOf, hpin c hc, ite_self]
    · rw [takeEvent_fs_trace, htrace, List.append_assoc]
    · simpa [or_imp, forall_and] using hrise
  | on =>
    refine ⟨by rw [takeEvent_on_offCmp, hcmp], fun c hc => ?_,
      es ++ (headChannel u.onCounter).toList.map fun c => ⟨u.frame, u.cnt, .rise, c⟩, ?_, ?_⟩
    · rw [takeEvent_on_pinOf, hpin c hc, ite_self]
    · rw [takeEvent_on_trace, htrace, List.append_assoc]
    · simpa [or_imp, forall_and] using hrise
  | off => exact absurd rfl he

/-- With 32768 or more in `OFF_CMP` the tick runs no `EVT.OFF`: the counter never reaches it. -/
theorem tick_of_stalled {s : State} (h : 32768 ≤ s.offCmp.toNat) :
    tick s = takeEvents s.raisedBeforeOff (s.setCnt (nextCount s.cnt)) := by
  rw [tick_eq_off_last, if_neg]
  have := (nextCount s.cnt).isLt
  omega

/-- Settles O53: of the operations other than `RESET` and `EVT.OFF` only the tick could run the off handler. -/
theorem stalledOffQueueNeverLowersAPin : Obligations.StalledOffQueueNeverLowersAPin := by
  intro i s t hstall hreset hoff h
  have event (e : Event) (he : e ≠ .off) : OnlyRaised s (takeEvent e s) :=
    onlyRaised_takeEvent he (onlyRaised_of_same rfl rfl rfl)
  suffices hraised : OnlyRaised s t from ⟨hraised.offCmp, hraised.pin, hraised.trace⟩
  cases i with
  | tick =>
    cases h
    rw [tick_of_stalled hstall]
    exact takeEvents_keeps (fun e he u => onlyRaised_takeEvent fun q => off_notMem_raisedBeforeOff s (q ▸ he))
      (onlyRaised_of_same rfl rfl rfl)
  | wrH a b => cases h; exact onlyRaised_of_same rfl rfl rfl
  | wrL a b => cases h; exact onlyRaised_of_same rfl rfl rfl
  | rd a => cases h; exact onlyRaised_of_same rfl rfl rfl
  | poll => cases h; exact onlyRaised_of_same (pollWith_offCmp _ s) (pollWith_pin _ s) (pollWith_trace _ s)
  | evtFs => cases h; exact event .fs (by decide)
  | evtOn => cases h; exact event .on (by decide)
  | evtOff => exact absurd rfl hoff
  | reset => exact absurd rfl hreset

end Sys2Proof.Machine
end

section
/-! PROOFS. A tick as a whole: the one that begins a frame and the ones inside it (spec/42_frame_scheduler.md R160, R161). -/

namespace Sys2Proof.Machine

/-- What the tick of a frame boundary does when `ON_CMP` is not 0: `EVT.FS`, then `EVT.OFF` if `OFF_CMP` is 0. -/
structure StartTick (s t : State) : Prop where
  cnt : t.cnt = 0
  frame : t.frame = s.frame + 1
  onCounter : t.onCounter = 1
  onCmp : t.onCmp = onTime 1
  offCounter : t.offCounter = if s.offCmp.toNat = 0 then 1 else 0
  offCmp : t.offCmp = if s.offCmp.toNat = 0 then s.offTimeOf 1 else s.offCmp
  pin : ∀ c, t.pinOf c = if c = 0 then decide (s.offCmp.toNat ≠ 0) else s.pinOf c
  trace : t.trace = s.trace ++ ⟨s.frame + 1, 0, .rise, 0⟩ ::
    if s.offCmp.toNat = 0 then [⟨s.frame + 1, 0, .fall, 0⟩] else []

theorem startTick {s : State} (hc : s.cnt.toNat = 32767) (hon : s.onCmp ≠ 0) : StartTick s (tick s) := by
  have hn : nextCount s.cnt = 0 := BitVec.eq_of_toNat_eq (by rw [nextCount_toNat, hc]; rfl)
  have hno : ¬ 0 = s.onCmp.toNat := fun e => hon (BitVec.eq_of_toNat_eq (by simpa using e.symm))
  have hadv : advance 0 = 1 := by decide
  have hwrap : wrapHead 1 = 1 := by decide
  have htick : tick s =
      if s.offCmp.toNat = 0 then takeEvent .off (takeEvent .fs (s.setCnt 0)) else takeEvent .fs (s.setCnt 0) := by
    rw [tick_eq_ifs, hn]
    simp [hno, eq_comm]
  rw [htick]
  split
  case isTrue h =>
    constructor <;> simp [h, hadv, hwrap, headChannel]
    intro c
    by_cases hc : c = 0 <;> simp [hc, eq_comm]
  case isFalse h => constructor <;> simp [h]

/-- What a tick inside a frame does: `EVT.ON` on a match of `ON_CMP`, then `EVT.OFF` on a match of `OFF_CMP`. -/
structure InsideTick (s t : State) : Prop where
  cnt : t.cnt.toNat = s.cnt.toNat + 1
  frame : t.frame = s.frame
  onCounter : t.onCounter = if s.cnt.toNat + 1 = s.onCmp.toNat then advance s.onCounter else s.onCounter
  onCmp : t.onCmp = if s.cnt.toNat + 1 = s.onCmp.toNat then onTime (advance s.onCounter) else s.onCmp
  offCounter : t.offCounter = if s.cnt.toNat + 1 = s.offCmp.toNat then advance s.offCounter else s.offCounter
  offCmp : t.offCmp =
    if s.cnt.toNat + 1 = s.offCmp.toNat then s.offTimeOf (wrapHead (advance s.offCounter)) else s.offCmp
  pin : ∀ c, t.pinOf c =
    if s.cnt.toNat + 1 = s.offCmp.toNat ∧ headChannel s.offCounter = some c then false
    else if s.cnt.toNat + 1 = s.onCmp.toNat ∧ headChannel s.onCounter = some c then true
    else s.pinOf c
  trace : t.trace = s.trace ++
    ((if s.cnt.toNat + 1 = s.onCmp.toNat
        then (headChannel s.onCounter).toList.map fun c => ⟨s.frame, nextCount s.cnt, .rise, c⟩ else []) ++
      if s.cnt.toNat + 1 = s.offCmp.toNat
        then (headChannel s.offCounter).toList.map fun c => ⟨s.frame, nextCount s.cnt, .fall, c⟩ else [])

theorem nextCount_of_inside {t : Count} (h : t.toNat ≠ 32767) : (nextCount t).toNat = t.toNat + 1 := by
  have := t.isLt
  rw [nextCount_toNat]
  omega

theorem insideTick {s : State} (hc : s.cnt.toNat ≠ 32767) : InsideTick s (tick s) := by
  have hn := nextCount_of_inside hc
  have htick : tick s =
      if s.cnt.toNat + 1 = s.onCmp.toNat then
        if s.cnt.toNat + 1 = s.offCmp.toNat then takeEvent .off (takeEvent .on (s.setCnt (nextCount s.cnt)))
        else takeEvent .on (s.setCnt (nextCount s.cnt))
      else if s.cnt.toNat + 1 = s.offCmp.toNat then takeEvent .off (s.setCnt (nextCount s.cnt))
      else s.setCnt (nextCount s.cnt) := by
    rw [tick_eq_ifs]
    simp only [hn, Nat.succ_ne_zero, if_false]
    split_ifs <;> rfl
  constructor
  case pin =>
    intro c
    rw [htick]
    split_ifs <;> grind [takeEvent_on_pinOf, takeEvent_off_pinOf, takeEvent_on_offCounter, State.setCnt_pinOf,
      State.setCnt_onCounter, State.setCnt_offCounter]
  all_goals
    rw [htick]
    split_ifs <;> simp [hn]

end Sys2Proof.Machine
end

section
/-! PROOFS. The shape of a frame (spec/42_frame_scheduler.md R168, R169). The run from a state inside a frame to the frame's
end is followed by induction on its operations; what is still to come of the frame is said relative to fall times `w`. -/

namespace Sys2Proof.Machine

/-! ### The edges of a frame -/

/-- The edges of a frame from channel `k`'s rise on. -/
theorem frameEdges_drop_rise (f : Int) (w : Channel → Count) (k : Channel) :
    (frameEdges f w).drop (2 * k.val) =
      ⟨f, BitVec.ofNat 15 (k.val * 8192), .rise, k⟩ :: (frameEdges f w).drop (2 * k.val + 1) := by
  fin_cases k <;> rfl

/-- The edges of a frame from channel `k`'s fall on. -/
theorem frameEdges_drop_fall (f : Int) (w : Channel → Count) (k : Channel) :
    (frameEdges f w).drop (2 * k.val + 1) = ⟨f, w k, .fall, k⟩ :: (frameEdges f w).drop (2 * k.val + 2) := by
  fin_cases k <;> rfl

theorem frameEdges_drop_all (f : Int) (w : Channel → Count) : (frameEdges f w).drop 8 = [] := rfl

/-! ### Every state of a run -/

/-- Every state the run of a list reaches, the first and the last included, satisfies the predicate. -/
def Throughout (P : State → Prop) (l : List Instr) (s : State) : Prop :=
  ∀ l₁ l₂ u, l = l₁ ++ l₂ → runInstrs l₁ s = .next u → P u

theorem throughout_nil {P : State → Prop} {s : State} (h : P s) : Throughout P [] s := by
  intro l₁ l₂ u hl hu
  obtain ⟨rfl, rfl⟩ := List.nil_eq_append_iff.1 hl
  cases hu
  exact h

theorem throughout_cons {P : State → Prop} {i : Instr} {l : List Instr} {s t : State} (h : P s)
    (hi : exec i s = .next t) (hl : Throughout P l t) : Throughout P (i :: l) s := by
  intro l₁ l₂ u hl' hu
  cases l₁ with
  | nil => cases hu; exact h
  | cons j l₁ =>
    obtain ⟨rfl, rfl⟩ := List.cons_eq_cons.1 hl'
    rw [runInstrs_cons_of_next hi] at hu
    exact hl l₁ l₂ u rfl hu

/-! ### Falls -/

/-- Some tick of the run from `s` lowers channel `k` at `τ`, and `u` is the state it runs in. -/
def fallTick (l : List Instr) (s : State) (k : Channel) (τ : Count) (u : State) : Prop :=
  ∃ l₁ l₂, l = l₁ ++ .tick :: l₂ ∧ runInstrs l₁ s = .next u ∧ aboutToFall u k ∧ nextCount u.cnt = τ

theorem fallTick_cons {i : Instr} {l : List Instr} {s t u : State} {k : Channel} {τ : Count}
    (hi : exec i s = .next t) (h : fallTick l t k τ u) : fallTick (i :: l) s k τ u := by
  obtain ⟨l₁, l₂, rfl, hrun, hfall⟩ := h
  exact ⟨i :: l₁, l₂, rfl, by rw [runInstrs_cons_of_next hi, hrun], hfall⟩

theorem fallTick_head {l : List Instr} {s : State} {k : Channel} (h : aboutToFall s k) :
    fallTick (.tick :: l) s k (nextCount s.cnt) s := ⟨[], l, rfl, rfl, h, rfl⟩

/-- The falls of a frame from channel `n`'s on, in the run of `l` from `s` to `t`: channel `n` falls at the latched
`OFF_CMP`, each fall is in its window, each later one is the off-time at the fall before, and the last one latches channel
0's off-time (R169). With `n = 4` no fall is to come and `OFF_CMP` stays. -/
structure FallsFrom (w : Channel → Count) (l : List Instr) (s t : State) (n : Nat) : Prop where
  latched : ∀ c : Channel, c.val = n → zext16 (w c) = s.offCmp
  inWindow : ∀ c : Channel, n ≤ c.val → inWindow c (zext16 (w c))
  chain : ∀ k k' : Channel, k'.val = k.val + 1 → n ≤ k.val →
    ∃ u, fallTick l s k (w k) u ∧ zext16 (w k') = u.offTimeOf k'
  reload : (n = 4 ∧ t.offCmp = s.offCmp) ∨ ∃ u, fallTick l s 3 (w 3) u ∧ t.offCmp = u.offTimeOf 0

/-- An operation that leaves `OFF_CMP` alone goes before the falls. -/
theorem FallsFrom.cons {w : Channel → Count} {i : Instr} {l : List Instr} {s s' t : State} {n : Nat}
    (hi : exec i s = .next s') (ho : s'.offCmp = s.offCmp) (h : FallsFrom w l s' t n) :
    FallsFrom w (i :: l) s t n := by
  obtain ⟨hlatch, hwin, hchain, hreload⟩ := h
  refine ⟨fun c hc => (hlatch c hc).trans ho, hwin, fun k k' hk hn => ?_, ?_⟩
  · obtain ⟨u, hu, hv⟩ := hchain k k' hk hn
    exact ⟨u, fallTick_cons hi hu, hv⟩
  · rcases hreload with ⟨hn, ht⟩ | ⟨u, hu, ht⟩
    · exact .inl ⟨hn, ht.trans ho⟩
    · exact .inr ⟨u, fallTick_cons hi hu, ht⟩

/-- The tick in which channel `k` falls and `OFF_CMP` takes the next channel's off-time goes before the later falls. -/
theorem FallsFrom.fall {w : Channel → Count} {l : List Instr} {s t : State} {k : Channel} (hfall : aboutToFall s k)
    (hwk : w k = nextCount s.cnt) (hq : Machine.inWindow k s.offCmp)
    (hload : ∀ c : Channel, c.val = (k.val + 1) % 4 → (tick s).offCmp = s.offTimeOf c)
    (h : FallsFrom w l (tick s) t (k.val + 1)) : FallsFrom w (.tick :: l) s t k.val := by
  obtain ⟨hlatch, hwin, hchain, hreload⟩ := h
  have hnow : fallTick (.tick :: l) s k (w k) s := hwk ▸ fallTick_head hfall
  have hcmp : zext16 (w k) = s.offCmp := hwk ▸ hfall.1
  refine ⟨?_, ?_, ?_, ?_⟩
  · intro c hc
    rwa [Fin.ext hc]
  · intro c hc
    rcases Nat.eq_or_lt_of_le hc with hc | hc
    · rwa [← Fin.ext hc, hcmp]
    · exact hwin c hc
  · intro j j' hj hn
    rcases Nat.eq_or_lt_of_le hn with hn | hn
    · obtain rfl : k = j := Fin.ext hn
      exact ⟨s, hnow, (hlatch j' hj).trans (hload j' (by omega))⟩
    · obtain ⟨u, hu, hv⟩ := hchain j j' hj hn
      exact ⟨u, fallTick_cons (exec_tick s) hu, hv⟩
  · rcases hreload with ⟨hk, ht⟩ | ⟨u, hu, ht⟩
    · obtain rfl : k = 3 := Fin.ext (show k.val = 3 by omega)
      exact .inr ⟨s, hnow, ht.trans (hload 0 rfl)⟩
    · exact .inr ⟨u, fallTick_cons (exec_tick s) hu, ht⟩

/-! ### Inside a frame -/

/-- The end of a frame: a boundary with both queues exhausted and the sentinel in `ON_CMP`. -/
def frameEnd (s : State) : Prop := atBoundary s ∧ s.onCounter = 4 ∧ s.offCounter = 4 ∧ s.onCmp = 32768

/-- `QUEUE_OK`, and a pin is high exactly from its channel's on-time to its fall. -/
def pulsesAt (w : Channel → Count) (s : State) : Prop :=
  queueOk s ∧ ∀ c : Channel, s.pinOf c = decide (c.val * 8192 ≤ s.cnt.toNat ∧ s.cnt.toNat < (w c).toNat)

theorem pulsesAt_of_inFrame {w : Channel → Count} {s : State} (hs : inFrame s)
    (hpast : ∀ c : Channel, c.val < s.offCounter.val → (w c).toNat ≤ s.cnt.toNat)
    (hnext : ∀ c : Channel, c.val = s.offCounter.val → zext16 (w c) = s.offCmp) : pulsesAt w s := by
  obtain ⟨-, -, hq, hoff⟩ := hs
  have hwc := windowChannel_val s.cnt
  refine ⟨hq, fun c => ?_⟩
  rcases hoff with ⟨hoff, hahead, hpin⟩ | ⟨hoff, hpin⟩
  · rw [hpin, decide_eq_decide]
    constructor
    · rintro rfl
      have hw := congrArg BitVec.toNat (hnext (windowChannel s.cnt) hoff.symm)
      rw [zext16_toNat] at hw
      omega
    · rintro ⟨hge, hlt⟩
      have : ¬ c.val < s.offCounter.val := fun h => by have := hpast c h; omega
      exact Fin.ext (by omega)
  · rw [hpin, eq_comm, decide_eq_false_iff_not]
    rintro ⟨hge, hlt⟩
    have := hpast c (by omega)
    omega

theorem frameEnd_of_inFrame_last {s : State} (hs : inFrame s) (hc : s.cnt.toNat = 32767) : frameEnd s := by
  have hb := atBoundary_of_inFrame_last hs hc
  obtain ⟨hon, hcmp, hq, hoff⟩ := hs
  have hwc := windowChannel_val s.cnt
  have ⟨_, _, hoffc, _, _⟩ := hb
  have hon4 : s.onCounter = 4 := Fin.ext (show s.onCounter.val = 4 by omega)
  refine ⟨hb, hon4, ?_, by rw [hcmp, hon4]; rfl⟩
  rcases hoff with ⟨hoff, -, -⟩ | ⟨hoff, -⟩
  · rcases hoffc with h | h <;> rw [h] at hoff ⊢
    have : (0 : QueueHead).val = 0 := rfl
    omega
  · exact Fin.ext (show s.offCounter.val = 4 by omega)

/-- On a match of `ON_CMP` inside a frame both heads are at the channel that rises. -/
theorem heads_of_onMatch {s : State} (hs : inFrame s) (hc : s.cnt.toNat ≠ 32767)
    (hon : s.cnt.toNat + 1 = s.onCmp.toNat) : ∃ k : Channel, k.val = s.onCounter.val ∧ k.val = s.offCounter.val ∧
      nextCount s.cnt = BitVec.ofNat 15 (k.val * 8192) := by
  obtain ⟨honc, hcmp, hq, hoff⟩ := hs
  have hwc := windowChannel_val s.cnt
  have hlt := s.cnt.isLt
  rw [hcmp, onTime_toNat] at hon
  have hk : s.onCounter.val < 4 := by omega
  have hoffc : s.onCounter.val = s.offCounter.val := by
    rcases hoff with ⟨hoff, hahead, -⟩ | ⟨hoff, -⟩
    · rw [queueOk, inWindow_iff, wrapHead_val] at hq
      omega
    · omega
  refine ⟨⟨s.onCounter.val, hk⟩, rfl, hoffc, BitVec.eq_of_toNat_eq ?_⟩
  rw [nextCount_of_inside hc, BitVec.toNat_ofNat]
  simp only
  omega

/-- On a match of `OFF_CMP` inside a frame the head of the off queue is the channel in whose window the counter comes to
stand. -/
theorem head_of_offMatch {s : State} (hs : inFrame s) (hc : s.cnt.toNat ≠ 32767)
    (hoff : s.cnt.toNat + 1 = s.offCmp.toNat) :
    ∃ k : Channel, k.val = s.offCounter.val ∧ inWindow k s.offCmp ∧ aboutToFall s k := by
  obtain ⟨-, -, hq, hhead⟩ := hs
  have hwc := windowChannel_val s.cnt
  have hlt := s.cnt.isLt
  have hk : s.offCounter.val < 4 := by
    have hq' := hq
    rw [queueOk, inWindow_iff, wrapHead_val] at hq'
    rcases hhead with ⟨h, -, -⟩ | ⟨h, -⟩ <;> omega
  have hwrap : wrapHead s.offCounter = ⟨s.offCounter.val, hk⟩ := Fin.ext (Nat.mod_eq_of_lt hk)
  refine ⟨⟨s.offCounter.val, hk⟩, rfl, hwrap ▸ hq, BitVec.eq_of_toNat_eq ?_, hwrap⟩
  rw [zext16_toNat, nextCount_of_inside hc, hoff]

/-- On a match of `OFF_CMP` alone the on queue is one past the channel that falls. -/
theorem onCounter_of_offMatch {s : State} (hs : inFrame s) (hon : s.cnt.toNat + 1 ≠ s.onCmp.toNat)
    (hoff : s.cnt.toNat + 1 = s.offCmp.toNat) {k : Channel} (hk : k.val = s.offCounter.val)
    (hwin : inWindow k s.offCmp) : s.onCounter.val = k.val + 1 := by
  obtain ⟨honc, hcmp, -, hhead⟩ := hs
  have hwc := windowChannel_val s.cnt
  rw [hcmp, onTime_toNat] at hon
  rw [inWindow_iff] at hwin
  rcases hhead with ⟨h, -, -⟩ | ⟨h, -⟩ <;> omega

/-- A tick inside a frame traces the edges that were next. -/
theorem edges_tick {s : State} (hs : inFrame s) (hc : s.cnt.toNat ≠ 32767) {w : Channel → Count}
    (hw : ∀ k : Channel, k.val = s.offCounter.val → s.cnt.toNat + 1 = s.offCmp.toNat → w k = nextCount s.cnt) :
    s.trace ++ (frameEdges s.frame w).drop (s.onCounter.val + s.offCounter.val) =
      (tick s).trace ++ (frameEdges (tick s).frame w).drop ((tick s).onCounter.val + (tick s).offCounter.val) := by
  obtain ⟨-, hframe, honc, -, hoffc, -, -, htrace⟩ := insideTick hc
  rw [htrace, honc, hoffc, hframe, List.append_assoc]
  congr 1
  by_cases hon : s.cnt.toNat + 1 = s.onCmp.toNat
  · obtain ⟨k, hkon, hkoff, hτ⟩ := heads_of_onMatch hs hc hon
    have hlen : s.onCounter.val + s.offCounter.val = 2 * k.val := by omega
    have honl : (advance s.onCounter).val = k.val + 1 := by rw [advance_val]; omega
    have hoffl : (advance s.offCounter).val = k.val + 1 := by rw [advance_val]; omega
    rw [if_pos hon, if_pos hon, headChannel_of_lt hkon, hlen, frameEdges_drop_rise, hτ, honl]
    by_cases hoff : s.cnt.toNat + 1 = s.offCmp.toNat
    · rw [if_pos hoff, if_pos hoff, headChannel_of_lt hkoff, hoffl, frameEdges_drop_fall, hw k hkoff hoff, hτ,
        show k.val + 1 + (k.val + 1) = 2 * k.val + 2 by omega]
      rfl
    · rw [if_neg hoff, if_neg hoff, show k.val + 1 + s.offCounter.val = 2 * k.val + 1 by omega]
      rfl
  · rw [if_neg hon, if_neg hon]
    by_cases hoff : s.cnt.toNat + 1 = s.offCmp.toNat
    · obtain ⟨k, hkoff, hwin, -⟩ := head_of_offMatch hs hc hoff
      have honk := onCounter_of_offMatch hs hon hoff hkoff hwin
      have hoffl : (advance s.offCounter).val = k.val + 1 := by rw [advance_val]; omega
      rw [if_pos hoff, if_pos hoff, headChannel_of_lt hkoff, hoffl, honk, ← hkoff,
        show k.val + 1 + k.val = 2 * k.val + 1 by omega, frameEdges_drop_fall, hw k hkoff hoff,
        show k.val + 1 + (k.val + 1) = 2 * k.val + 2 by omega]
      rfl
    · rw [if_neg hoff, if_neg hoff]
      rfl

/-- The rest of a frame, in the run of `l` from `s` inside the frame to `t` at its end, with fall times `w`. -/
structure FrameRest (w : Channel → Count) (l : List Instr) (s t : State) : Prop where
  run : runInstrs l s = .next t
  falls : FallsFrom w l s t s.offCounter.val
  trace : t.trace = s.trace ++ (frameEdges s.frame w).drop (s.onCounter.val + s.offCounter.val)
  frame : t.frame = s.frame
  pulses : Throughout (pulsesAt w) l s
  ends : frameEnd t

/-- An operation goes before the rest of a frame: what is left to say of it is the falls and the edges. -/
theorem FrameRest.cons {w : Channel → Count} {i : Instr} {l : List Instr} {s s' t : State} (h : FrameRest w l s' t)
    (hi : exec i s = .next s') (hs : inFrame s) (hframe : s'.frame = s.frame)
    (hpast : ∀ c : Channel, c.val < s.offCounter.val → (w c).toNat ≤ s.cnt.toNat)
    (hfalls : FallsFrom w (i :: l) s t s.offCounter.val)
    (htrace : s.trace ++ (frameEdges s.frame w).drop (s.onCounter.val + s.offCounter.val) =
      s'.trace ++ (frameEdges s'.frame w).drop (s'.onCounter.val + s'.offCounter.val)) : FrameRest w (i :: l) s t where
  run := (runInstrs_cons_of_next hi).trans h.run
  falls := hfalls
  trace := h.trace.trans htrace.symm
  frame := h.frame.trans hframe
  pulses := throughout_cons (pulsesAt_of_inFrame hs hpast hfalls.latched) hi h.pulses
  ends := h.ends

/-- Nothing is left of a frame at its last counter value. -/
theorem frameRest_nil {w : Channel → Count} {s : State} (hs : inFrame s) (hcnt : s.cnt.toNat = 32767)
    (hpast : ∀ c : Channel, c.val < s.offCounter.val → (w c).toNat ≤ s.cnt.toNat) : FrameRest w [] s s := by
  have hend := frameEnd_of_inFrame_last hs hcnt
  have ⟨_, hon4, hoff4, _⟩ := hend
  have hnone (c : Channel) : ¬ s.offCounter.val ≤ c.val := by
    rw [hoff4]; exact Nat.not_le_of_lt c.isLt
  refine ⟨rfl, ⟨?_, ?_, ?_, ?_⟩, ?_, rfl, throughout_nil ?_, hend⟩
  · exact fun c hc => absurd hc.ge (hnone c)
  · exact fun c hc => absurd hc (hnone c)
  · exact fun k k' _ hk => absurd hk (hnone k)
  · exact .inl ⟨congrArg Fin.val hoff4, rfl⟩
  · rw [hon4, hoff4, show (4 : QueueHead).val + (4 : QueueHead).val = 8 from rfl, frameEdges_drop_all, List.append_nil]
  · exact pulsesAt_of_inFrame hs hpast fun c hc => absurd hc.ge (hnone c)

/-- From a state inside a frame to the frame's end, whatever in-contract operations fall between the ticks: the falls
already past, at any times `w₀` that are past, extend to fall times for the whole frame. -/
theorem frameRest_exists (l : List Instr) : ∀ (s : State) (w₀ : Channel → Count), inFrame s → windowOk s →
    inContractRun l s → s.cnt.toNat + l.count .tick = 32767 →
    (∀ c : Channel, c.val < s.offCounter.val → (w₀ c).toNat ≤ s.cnt.toNat) →
    ∃ t w, (∀ c : Channel, c.val < s.offCounter.val → w c = w₀ c) ∧ FrameRest w l s t := by
  induction l with
  | nil => exact fun s w₀ hs _ _ hcnt hpast => ⟨s, w₀, fun _ _ => rfl, frameRest_nil hs hcnt hpast⟩
  | cons i l ih =>
    intro s w₀ hs hwin ⟨hi, hl⟩ hcnt hpast
    by_cases htick : i = .tick
    case neg =>
      obtain ⟨s', hs'⟩ := exec_completes i s
      have hsame := sameScheduler_of_freeRunning hi.1 htick hs'
      rw [List.count_cons_of_ne htick] at hcnt
      obtain ⟨t, w, hw, h⟩ := ih s' w₀ (inFrame_of_sameScheduler hsame hs) (windowOk_exec hwin hi hs') (hl s' hs')
        (by rwa [hsame.cnt]) (by rwa [hsame.cnt, hsame.offCounter])
      rw [hsame.offCounter] at hw
      refine ⟨t, w, hw, h.cons hs' hs hsame.frame (fun c hc => hw c hc ▸ hpast c hc) ?_ ?_⟩
      · exact (hsame.offCounter ▸ h.falls).cons hs' hsame.offCmp
      · rw [hsame.trace, hsame.frame, hsame.onCounter, hsame.offCounter]
    case pos =>
      subst htick
      rw [List.count_cons_self] at hcnt
      have hlast : s.cnt.toNat ≠ 32767 := by omega
      have hin := insideTick hlast
      have ih (w₁) := ih (tick s) w₁ (inFrame_tick_of_inFrame hs hwin hlast) (windowOk_congr (tick_offTime s) hwin)
        (hl (tick s) (exec_tick s)) (by rw [hin.cnt]; omega)
      by_cases hoff : s.cnt.toNat + 1 = s.offCmp.toNat
      case neg =>
        have hoffc : (tick s).offCounter = s.offCounter := by rw [hin.offCounter, if_neg hoff]
        obtain ⟨t, w, hw, h⟩ := ih w₀ fun c hc => by
          rw [hin.cnt]
          exact Nat.le_succ_of_le (hpast c (hoffc ▸ hc))
        rw [hoffc] at hw
        refine ⟨t, w, hw, h.cons (exec_tick s) hs hin.frame (fun c hc => hw c hc ▸ hpast c hc) ?_ ?_⟩
        · exact (hoffc ▸ h.falls).cons (exec_tick s) (by rw [hin.offCmp, if_neg hoff])
        · exact edges_tick hs hlast fun _ _ h => absurd h hoff
      case pos =>
        obtain ⟨k, hk, hwk, hfall⟩ := head_of_offMatch hs hlast hoff
        have hoffc : (tick s).offCounter.val = k.val + 1 := by
          rw [hin.offCounter, if_pos hoff, advance_val]; omega
        obtain ⟨t, w, hw, h⟩ := ih (Function.update w₀ k (nextCount s.cnt)) fun c hc => by
          rw [hin.cnt]
          by_cases hck : c = k
          · rw [hck, Function.update_self, nextCount_of_inside hlast]
          · have hlt : c.val < s.offCounter.val := by have := Fin.val_ne_of_ne hck; omega
            rw [Function.update_of_ne hck]
            exact Nat.le_succ_of_le (hpast c hlt)
        rw [hoffc] at hw
        have hwkeep (c : Channel) (hc : c.val < s.offCounter.val) : w c = w₀ c := by
          rw [hw c (by omega), Function.update_of_ne (Fin.ne_of_val_ne (by omega))]
        have hwfall : w k = nextCount s.cnt := by rw [hw k (by omega), Function.update_self]
        refine ⟨t, w, hwkeep, h.cons (exec_tick s) hs hin.frame (fun c hc => hwkeep c hc ▸ hpast c hc) ?_ ?_⟩
        · rw [← hk]
          refine (hoffc ▸ h.falls).fall hfall hwfall hwk fun c hc => ?_
          rw [hin.offCmp, if_pos hoff]
          congr 1
          exact Fin.ext (by rw [wrapHead_val, advance_val]; omega)
        · refine edges_tick hs hlast fun c hc _ => ?_
          rw [Fin.ext (hc.trans hk.symm), hwfall]

end Sys2Proof.Machine
end

section
/-! PROOFS. The shape of a frame from its boundary, and that no frame is a timing violation
(spec/42_frame_scheduler.md R168, R169; spec/60_exceptions.md R215). -/

namespace Sys2Proof.Machine

/-- A whole frame, in the run of `l` from the boundary `s` to the boundary `t`, with fall times `w` (R169). -/
structure WholeFrame (w : Channel → Count) (l : List Instr) (s t : State) : Prop where
  run : runInstrs l s = .next t
  falls : FallsFrom w l s t 0
  trace : t.trace = s.trace ++ frameEdges (s.frame + 1) w
  frame : t.frame = s.frame + 1
  pulses : ∀ l₁ l₂ u, l = l₁ ++ l₂ → runInstrs l₁ s = .next u → queueOk u ∧ (Instr.tick ∈ l₁ → pulsesAt w u)
  ends : frameEnd t

/-- The first tick from a boundary, whether channel 0 falls in it or not. -/
theorem WholeFrame.start {l : List Instr} {s : State} (hb : atBoundary s) (hwin : windowOk s)
    (hl : inContractRun l (tick s)) (hcnt : l.count .tick = 32767) : ∃ t w, WholeFrame w (.tick :: l) s t := by
  have ⟨hcnt0, hon, hoffc, hcmp, hpin⟩ := hb
  have hstart := startTick hcnt0 hon
  have hn : nextCount s.cnt = 0 := BitVec.eq_of_toNat_eq (by rw [nextCount_toNat, hcnt0]; rfl)
  obtain ⟨hin, hcnt1⟩ := inFrame_tick_of_atBoundary hb hwin
  obtain ⟨t, w, hw, h⟩ := frameRest_exists l (tick s) (fun _ => 0) hin (windowOk_congr (tick_offTime s) hwin) hl
    (by rw [hcnt1, hcnt]) (fun _ _ => Nat.zero_le _)
  refine ⟨t, w, (runInstrs_cons_of_next (exec_tick s)).trans h.run, ?falls, ?trace, h.frame.trans hstart.frame, ?pulses, h.ends⟩
  case falls =>
    by_cases hz : s.offCmp.toNat = 0
    case pos =>
      have hwrap : wrapHead s.offCounter = 0 := by rcases hoffc with h | h <;> rw [h] <;> rfl
      have hfall : aboutToFall s 0 := ⟨BitVec.eq_of_toNat_eq (by rw [hn, hz]; rfl), hwrap⟩
      have hoff1 : (tick s).offCounter = 1 := by rw [hstart.offCounter, if_pos hz]
      have hw0 : w 0 = nextCount s.cnt := by rw [hw 0 (by rw [hoff1]; decide), hn]
      refine FallsFrom.fall (k := 0) hfall hw0 ⟨Nat.zero_le _, by rw [hz]; exact Nat.zero_le _⟩ (fun c hc => ?_)
        (by simpa [hoff1] using h.falls)
      rw [hstart.offCmp, if_pos hz, show c = 1 from Fin.ext hc]
    case neg =>
      have hoff0 : (tick s).offCounter = 0 := by rw [hstart.offCounter, if_neg hz]
      have hfalls := h.falls
      rw [hoff0] at hfalls
      exact hfalls.cons (exec_tick s) (by rw [hstart.offCmp, if_neg hz])
  case trace =>
    rw [h.trace, hstart.trace, hstart.frame, hstart.onCounter, hstart.offCounter, List.append_assoc]
    congr 1
    by_cases hz : s.offCmp.toNat = 0
    · have hw0 : (0 : Count) = w 0 := (hw 0 (by rw [hstart.offCounter, if_pos hz]; decide)).symm
      rw [if_pos hz, if_pos hz]
      exact congrArg (fun τ : Count => ⟨s.frame + 1, 0, .rise, 0⟩ :: ⟨s.frame + 1, τ, .fall, 0⟩ ::
        (frameEdges (s.frame + 1) w).drop 2) hw0
    · rw [if_neg hz, if_neg hz]
      rfl
  case pulses =>
    intro l₁ l₂ u hl₁ hu
    cases l₁ with
    | nil => cases hu; exact ⟨queueOk_of_atBoundary hb, fun hm => absurd hm List.not_mem_nil⟩
    | cons j l₁ =>
      obtain ⟨rfl, rfl⟩ := List.cons_eq_cons.1 hl₁
      rw [runInstrs_cons_of_next (exec_tick s)] at hu
      have hp := h.pulses l₁ l₂ u rfl hu
      exact ⟨hp.1, fun _ => hp⟩

/-- Operations of the bus and the update agent before the first tick leave the boundary as it is. -/
theorem WholeFrame.cons {w : Channel → Count} {i : Instr} {l : List Instr} {s s' t : State} (h : WholeFrame w l s' t)
    (hi : exec i s = .next s') (hne : i ≠ .tick) (hsame : SameScheduler s s') : WholeFrame w (i :: l) s t := by
  refine ⟨(runInstrs_cons_of_next hi).trans h.run, h.falls.cons hi hsame.offCmp, ?_, ?_, ?_, h.ends⟩
  · rw [h.trace, hsame.trace, hsame.frame]
  · rw [h.frame, hsame.frame]
  · intro l₁ l₂ u hl₁ hu
    cases l₁ with
    | nil =>
      cases hu
      have hq := (h.pulses [] l s' rfl rfl).1
      rw [queueOk, hsame.offCounter, hsame.offCmp] at hq
      exact ⟨hq, fun hm => absurd hm List.not_mem_nil⟩
    | cons j l₁ =>
      obtain ⟨rfl, rfl⟩ := List.cons_eq_cons.1 hl₁
      rw [runInstrs_cons_of_next hi] at hu
      have hp := h.pulses l₁ l₂ u rfl hu
      exact ⟨hp.1, fun hm => hp.2 (List.mem_of_ne_of_mem hne.symm hm)⟩

theorem wholeFrame_exists (l : List Instr) : ∀ s : State, atBoundary s → windowOk s → inContractRun l s →
    l.count .tick = 32768 → ∃ t w, WholeFrame w l s t := by
  induction l with
  | nil => exact fun s _ _ _ hcnt => absurd hcnt (by simp)
  | cons i l ih =>
    intro s hb hwin ⟨hi, hl⟩ hcnt
    by_cases htick : i = .tick
    case pos =>
      subst htick
      rw [List.count_cons_self] at hcnt
      exact WholeFrame.start hb hwin (hl (tick s) (exec_tick s)) (Nat.succ.inj hcnt)
    case neg =>
      obtain ⟨s', hs'⟩ := exec_completes i s
      have hsame := sameScheduler_of_freeRunning hi.1 htick hs'
      rw [List.count_cons_of_ne htick] at hcnt
      obtain ⟨t, w, h⟩ := ih s' (atBoundary_of_sameScheduler hsame hb) (windowOk_exec hwin hi hs') (hl s' hs') hcnt
      exact ⟨t, w, h.cons hs' htick hsame⟩

/-- Settles O49: the frame that the boundary's first tick opens, followed operation by operation to its end. -/
theorem frameShape : Obligations.FrameShape := by
  intro s l hb hwin hl hcnt
  obtain ⟨t, w, h⟩ := wholeFrame_exists l s hb hwin hl hcnt
  obtain ⟨hend, hon, hoff, hcmp⟩ := h.ends
  refine ⟨t, h.run, w, h.falls.latched 0 rfl, fun k => h.falls.inWindow k (Nat.zero_le _), fun k k' hk => ?chain,
    h.trace, fun l₁ l₂ u hl₁ hu => ?pulses, hend, hon, hoff, hcmp, ?reload⟩
  case chain =>
    obtain ⟨u, ⟨l₁, l₂, hl₁, hu, hfall, hτ⟩, hv⟩ := h.falls.chain k k' hk (Nat.zero_le _)
    exact ⟨l₁, l₂, u, hl₁, hu, hfall, hτ, hv⟩
  case pulses =>
    obtain ⟨hq, hp⟩ := h.pulses l₁ l₂ u hl₁ hu
    exact ⟨hq, fun hm => (hp hm).2⟩
  case reload =>
    obtain ⟨h04, -⟩ | ⟨u, ⟨l₁, l₂, hl₁, hu, hfall, hτ⟩, hv⟩ := h.falls.reload
    · cases h04
    · exact ⟨l₁, l₂, u, hl₁, hu, hfall, hτ, hv⟩

/-! ### No timing violation (R215) -/

theorem SameScheduler.refl (s : State) : SameScheduler s s := ⟨rfl, rfl, rfl, rfl, rfl, rfl, rfl, rfl⟩

theorem SameScheduler.trans {s t u : State} (h : SameScheduler s t) (h' : SameScheduler t u) : SameScheduler s u :=
  ⟨h'.cnt.trans h.cnt, h'.onCounter.trans h.onCounter, h'.offCounter.trans h.offCounter, h'.onCmp.trans h.onCmp,
    h'.offCmp.trans h.offCmp, h'.pin.trans h.pin, h'.trace.trans h.trace, h'.frame.trans h.frame⟩

theorem sameScheduler_of_run {l : List Instr} {s t : State} (hl : ∀ i ∈ l, freeRunning i = true ∧ i ≠ .tick)
    (h : runInstrs l s = .next t) : SameScheduler s t :=
  runInstrs_keeps (P := SameScheduler s)
    (fun i hi _ _ huv hu => hu.trans (sameScheduler_of_freeRunning (hl i hi).1 (hl i hi).2 huv)) h (SameScheduler.refl s)

theorem freeRunning_of_inContractRun {l : List Instr} {s : State} (hl : inContractRun l s) :
    ∀ i ∈ l, freeRunning i = true := by
  induction l generalizing s with
  | nil => simp
  | cons i l ih =>
    obtain ⟨hi, hrest⟩ := hl
    obtain ⟨t, ht⟩ := exec_completes i s
    exact List.forall_mem_cons.2 ⟨hi.1, ih (hrest t ht)⟩

theorem ne_reset_of_freeRunning {i : Instr} (h : freeRunning i = true) : i ≠ .reset := by
  rintro rfl
  cases h

theorem inContractRun_of_append {l₁ l₂ : List Instr} {s : State} (h : inContractRun (l₁ ++ l₂) s) :
    inContractRun l₁ s := by
  induction l₁ generalizing s with
  | nil => trivial
  | cons i l ih => exact ⟨h.1, fun t ht => ih (h.2 t ht)⟩

/-- In a state of a frame, the tick about to lower a channel traces its fall. -/
theorem fall_traced_by_tick {s : State} {k : Channel} (hs : frameInv s) (hfall : aboutToFall s k) :
    ∃ es f, (tick s).trace = s.trace ++ es ∧ (⟨f, nextCount s.cnt, .fall, k⟩ : Edge) ∈ es := by
  obtain ⟨hcmp, hhead⟩ := hfall
  have hmatch : s.offCmp.toNat = (nextCount s.cnt).toNat := by rw [← hcmp, zext16_toNat]
  have boundary (hb : atBoundary s) : ∃ es f, (tick s).trace = s.trace ++ es ∧
      (⟨f, nextCount s.cnt, .fall, k⟩ : Edge) ∈ es := by
    obtain ⟨hcnt, hon, hoff, -, -⟩ := hb
    have hn : nextCount s.cnt = 0 := BitVec.eq_of_toNat_eq (by rw [nextCount_toNat, hcnt]; rfl)
    have hz : s.offCmp.toNat = 0 := by rw [hmatch, hn]; rfl
    have hk : k = 0 := by rw [← hhead]; rcases hoff with h | h <;> rw [h] <;> rfl
    exact ⟨_, s.frame + 1, (startTick hcnt hon).trace, by simp [hz, hn, hk]⟩
  obtain ⟨-, hb | hin⟩ := hs
  · exact boundary hb
  · by_cases hlast : s.cnt.toNat = 32767
    · exact boundary (atBoundary_of_inFrame_last hin hlast)
    · have hoff : s.cnt.toNat + 1 = s.offCmp.toNat := by rw [hmatch, nextCount_of_inside hlast]
      obtain ⟨k', hk', -, -, hhead'⟩ := head_of_offMatch hin hlast hoff
      obtain rfl : k = k' := hhead.symm.trans hhead'
      exact ⟨_, s.frame, (insideTick hlast).trace, by simp [if_pos hoff, headChannel_of_lt hk']⟩

theorem frameEdges_frame {f : Int} {w : Channel → Count} {e : Edge} (h : e ∈ frameEdges f w) : e.frame = f := by
  obtain ⟨c, -, hc⟩ := List.mem_flatMap.1 h
  simp only [List.mem_cons, List.not_mem_nil, or_false] at hc
  rcases hc with rfl | rfl <;> rfl

theorem frameEdges_nodup (f : Int) (w : Channel → Count) : (frameEdges f w).Nodup := by
  simp [frameEdges, List.finRange]

theorem edgesOfFrame_of_wholeFrame {w : Channel → Count} {l : List Instr} {s t : State} (h : WholeFrame w l s t)
    (htr : traceOk s) : edgesOfFrame (s.frame + 1) t = frameEdges (s.frame + 1) w := by
  have hold : s.trace.filter (fun e => decide (e.frame = s.frame + 1)) = [] :=
    List.filter_eq_nil_iff.2 fun e he => by have := htr e he; rw [decide_eq_true_eq]; omega
  have hnew : (frameEdges (s.frame + 1) w).filter (fun e => decide (e.frame = s.frame + 1)) =
      frameEdges (s.frame + 1) w := List.filter_eq_self.2 fun e he => decide_eq_true (frameEdges_frame he)
  rw [edgesOfFrame, h.trace, List.filter_append, hold, hnew, List.nil_append]

/-- What a tick adds within a whole frame is one of its edges, and was not traced before: each edge of the frame is traced
once. -/
theorem traced_once {w : Channel → Count} {l₁ l₂ : List Instr} {s u t : State}
    (h : WholeFrame w (l₁ ++ .tick :: l₂) s t) (htr : traceOk s) (hfree : ∀ i ∈ l₁ ++ .tick :: l₂, freeRunning i = true)
    (hu : runInstrs l₁ s = .next u) {es : List Edge} (hes : (tick u).trace = u.trace ++ es) {e : Edge} (he : e ∈ es) :
    e ∈ frameEdges (s.frame + 1) w ∧ e ∉ u.trace := by
  have hne (i : Instr) (hi : i ∈ l₁ ++ .tick :: l₂) : i ≠ .reset := ne_reset_of_freeRunning (hfree i hi)
  have hrest : runInstrs l₂ (tick u) = .next t := by
    rw [← h.run, runInstrs_append_of_next hu, runInstrs_cons_of_next (exec_tick u)]
  obtain ⟨a, ha⟩ := trace_prefix_of_run (fun i hi => hne i (List.mem_append_left _ hi)) hu
  obtain ⟨b, hb⟩ := trace_prefix_of_run (fun i hi => hne i (List.mem_append_right _ (List.mem_cons_of_mem _ hi))) hrest
  have hedges : frameEdges (s.frame + 1) w = a ++ (es ++ b) := by
    apply List.append_cancel_left (as := s.trace)
    rw [← h.trace, ← hb, hes, ← ha, List.append_assoc, List.append_assoc]
  have hmem : e ∈ frameEdges (s.frame + 1) w := by rw [hedges]; simp [he]
  have hdisj : a.Disjoint (es ++ b) := List.disjoint_of_nodup_append (hedges ▸ frameEdges_nodup _ w)
  refine ⟨hmem, fun hold => ?_⟩
  rw [← ha, List.mem_append] at hold
  rcases hold with hs | ha
  · have := htr e hs
    have := frameEdges_frame hmem
    omega
  · exact hdisj ha (List.mem_append_left b he)

/-- A frame in contract is the eight-action sequence: its first tick traces the rise of channel 0, and each fall tick its
fall (R169(a)). -/
theorem eightActions_of_wholeFrame {w : Channel → Count} {l : List Instr} {s t : State} (h : WholeFrame w l s t)
    (hb : atBoundary s) (hwin : windowOk s) (htr : traceOk s) (hl : inContractRun l s) (hcnt : l.count .tick = 32768) :
    eightActions (s.frame + 1) l s t := by
  have hfree := freeRunning_of_inContractRun hl
  refine ⟨w, edgesOfFrame_of_wholeFrame h htr, fun c => h.falls.inWindow c (Nat.zero_le _), ?rise, fun c c' hc => ?fall⟩
  case rise =>
    have htick : Instr.tick ∈ l := List.count_pos_iff.1 (by omega)
    obtain ⟨l₁, l₂, rfl, hfirst⟩ := List.eq_append_cons_of_mem htick
    obtain ⟨u, hu⟩ := runInstrs_completes l₁ s
    have hsame := sameScheduler_of_run
      (fun i hi => ⟨hfree i (List.mem_append_left _ hi), fun q => hfirst (q ▸ hi)⟩) hu
    obtain ⟨hcntu, honu, -, -, -⟩ := atBoundary_of_sameScheduler hsame hb
    have hstart := (startTick hcntu honu).trace
    have hmem : (⟨s.frame + 1, 0, .rise, 0⟩ : Edge) ∈ (tick u).trace := by simp [hstart, hsame.frame]
    have hnot := (traced_once (e := ⟨s.frame + 1, 0, .rise, 0⟩) h htr hfree hu hstart (by simp [hsame.frame])).2
    exact ⟨u, ⟨l₁, .tick, l₂, tick u, rfl, hu, exec_tick u, hmem, hnot⟩, (h.falls.latched 0 rfl).trans hsame.offCmp.symm⟩
  case fall =>
    obtain ⟨u, ⟨l₁, l₂, rfl, hu, hfall, hτ⟩, hv⟩ := h.falls.chain c c' hc (Nat.zero_le _)
    obtain ⟨es, f, hes, hmem⟩ :=
      fall_traced_by_tick (frameInv_run ⟨hwin, .inl hb⟩ (inContractRun_of_append hl) hu) hfall
    have honce := traced_once h htr hfree hu hes hmem
    obtain rfl : f = s.frame + 1 := frameEdges_frame honce.1
    rw [hτ] at hmem honce
    exact ⟨u, ⟨l₁, .tick, l₂, tick u, rfl, hu, exec_tick u, by rw [hes]; exact List.mem_append_right _ hmem, honce.2⟩, hv⟩

/-- Settles O50: the frame is the eight-action sequence, and under the frame invariant no two pins are high after any of its
operations. -/
theorem noOutOfWindowNoTimingViolation : Obligations.NoOutOfWindowNoTimingViolation := by
  rintro s t l hb hwin htr hl hcnt hrun (hnot | ⟨l₁, i, l₂, u, rfl, hu, -, htwo⟩)
  · obtain ⟨t', w, h⟩ := wholeFrame_exists l s hb hwin hl hcnt
    obtain rfl : t' = t := Host.Outcome.next.inj (h.run.symm.trans hrun)
    exact hnot (eightActions_of_wholeFrame h hb hwin htr hl hcnt)
  · rw [List.append_cons] at hl
    exact not_twoPinsHigh_of_frameInv (frameInv_run ⟨hwin, .inl hb⟩ (inContractRun_of_append hl) hu) htwo

end Sys2Proof.Machine
end

section
/-! PROOFS. The register file and the update protocol: what a `SET` leaves, what the next `POLL` commits, and what the bus
master reads (spec/40_register_file.md; spec/41_update_protocol.md; spec/70_reset_and_hazards.md, "Hazards"). -/

namespace Sys2Proof.Machine

/-! ### Slots (R32, R63) -/

section
variable (s : State) (c : Channel)

theorem readRx_high_eq : s.readRx (highAddr c) = hiByte (s.pendingRaw c) := (hiByte_join _ _).symm

theorem readTx_high_eq : s.readTx (highAddr c) = hiByte (s.acceptedRaw c) := (hiByte_join _ _).symm

theorem readTx_low_eq : s.readTx (lowAddr c) = loByte (s.acceptedRaw c) := (loByte_join _ _).symm

theorem pendingRaw_writeRx_low (b : Byte) :
    (s.writeRx (lowAddr c) b).pendingRaw c = join (s.readRx (highAddr c)) b := by
  rw [State.pendingRaw, readRx_writeRx_same, readRx_writeRx_other s b (highAddr_ne_lowAddr c c)]

theorem pendingRaw_writeRx_high (b : Byte) :
    (s.writeRx (highAddr c) b).pendingRaw c = join b (s.readRx (lowAddr c)) := by
  rw [State.pendingRaw, readRx_writeRx_same, readRx_writeRx_other s b (highAddr_ne_lowAddr c c).symm]
end

/-- A store outside a slot leaves the slot's pending value. -/
theorem pendingRaw_writeRx_other (s : State) {a : Addr} {c : Channel} (b : Byte) (h : channelOf a ≠ c) :
    (s.writeRx a b).pendingRaw c = s.pendingRaw c := by
  have hhi : highAddr c ≠ a := fun e => h (by rw [← e, channelOf_highAddr])
  have hlo : lowAddr c ≠ a := fun e => h (by rw [← e, channelOf_lowAddr])
  rw [State.pendingRaw, readRx_writeRx_other s b hhi, readRx_writeRx_other s b hlo, State.pendingRaw]

/-! ### `SET` (R103) -/

/-- The state `SET c, v` leaves: the slot's two bytes, and its completion marked. -/
def State.withSlot (s : State) (c : Channel) (v : CmpWord) : State :=
  ((s.writeRx (highAddr c) (hiByte v)).writeRx (lowAddr c) (loByte v)).setMark c

section
variable (s : State) (c : Channel) (v : CmpWord)

theorem run_pseudoSet : runInstrs (pseudoSet c v) s = .next (s.withSlot c v) := by
  simp [pseudoSet, runInstrs, State.withSlot]

theorem run_pseudoSet_append (l : List Instr) : runInstrs (pseudoSet c v ++ l) s = runInstrs l (s.withSlot c v) :=
  runInstrs_append_of_next (run_pseudoSet s c v)

@[simp] theorem withSlot_markValid : (s.withSlot c v).markValid = true := rfl
@[simp] theorem withSlot_markSlot : (s.withSlot c v).markSlot = c := rfl
@[simp] theorem withSlot_reads : (s.withSlot c v).reads = s.reads := by simp [State.withSlot]
@[simp] theorem withSlot_readTx (a : Addr) : (s.withSlot c v).readTx a = s.readTx a := by simp [State.withSlot]
@[simp] theorem withSlot_offTimeOf (d : Channel) : (s.withSlot c v).offTimeOf d = s.offTimeOf d := by simp [State.withSlot]
@[simp] theorem withSlot_acceptedRaw (d : Channel) : (s.withSlot c v).acceptedRaw d = s.acceptedRaw d := by simp [State.withSlot]

@[simp] theorem withSlot_pendingRaw_same : (s.withSlot c v).pendingRaw c = v := by
  rw [State.withSlot, State.setMark_pendingRaw, pendingRaw_writeRx_low, readRx_writeRx_same, join_hiByte_loByte]

theorem withSlot_pendingRaw_other {d : Channel} (h : d ≠ c) : (s.withSlot c v).pendingRaw d = s.pendingRaw d := by
  rw [State.withSlot, State.setMark_pendingRaw, pendingRaw_writeRx_other _ _ (by simpa using h.symm),
    pendingRaw_writeRx_other _ _ (by simpa using h.symm)]
end

/-! ### `POLL` (R140 to R146) -/

theorem run_poll (s : State) (l : List Instr) : runInstrs (.poll :: l) s = runInstrs l (pollWith .trust s) :=
  runInstrs_cons_of_next (exec_poll s)

section
variable {s : State}

theorem poll_offTimeOf {c : Channel} (hv : s.markValid = true) (hc : s.markSlot = c) :
    (pollWith .trust s).offTimeOf c = biased c (s.pendingRaw c) := by
  rw [pollWith_of_marked .trust hv, hc, commitSlot_offTimeOf_same, admitted_trust]

theorem poll_acceptedRaw {c : Channel} (hv : s.markValid = true) (hc : s.markSlot = c) :
    (pollWith .trust s).acceptedRaw c = s.pendingRaw c := by
  rw [pollWith_of_marked .trust hv, hc, commitSlot_acceptedRaw_same, admitted_trust]

theorem poll_offTimeOf_other (s : State) {c : Channel} (h : c ≠ s.markSlot) :
    (pollWith .trust s).offTimeOf c = s.offTimeOf c := by
  cases hv : s.markValid with
  | false => rw [pollWith_of_unmarked .trust hv]
  | true => rw [pollWith_of_marked .trust hv, commitSlot_offTimeOf_other .trust _ s h]

theorem poll_acceptedRaw_other (s : State) {c : Channel} (h : c ≠ s.markSlot) :
    (pollWith .trust s).acceptedRaw c = s.acceptedRaw c := by
  cases hv : s.markValid with
  | false => rw [pollWith_of_unmarked .trust hv]
  | true => rw [pollWith_of_marked .trust hv, commitSlot_acceptedRaw_other .trust _ s h]

@[simp] theorem pollWith_pendingRaw (m : Config.ClampMode) (s : State) (c : Channel) :
    (pollWith m s).pendingRaw c = s.pendingRaw c := pendingRaw_congr (pollWith_rx m s) c
end

/-- Settles O21: the commit of the marked slot, whose value in numbers is the joined bytes with the bias, modulo 2^16. -/
theorem pollCommitsMirrorsAndConsumes : Obligations.PollCommitsMirrorsAndConsumes := by
  intro s hv
  obtain ⟨htrust, hhigh, hlow, -, hother⟩ := pollMirrorsTheRawBytes s hv
  refine ⟨pollWith .trust s, htrust, ?_, fun c => poll_offTimeOf_other s, hhigh, hlow, hother .trust,
    pollWith_frame .trust s⟩
  rw [poll_offTimeOf hv rfl, biased_toNat, State.pendingRaw, join_toNat]

/-! ### Consequences of the single marker (spec/40_register_file.md) -/

/-- Settles O16: the second `SET` moves the marker to its own slot, and the first slot's bytes wait in the receive bank for
another low byte. -/
theorem overwrittenMarkerLosesTheEarlierUpdate : Obligations.OverwrittenMarkerLosesTheEarlierUpdate := by
  intro s c d v v' hne
  have htwo (l : List Instr) : runInstrs (pseudoSet c v ++ pseudoSet d v' ++ .poll :: l) s =
      runInstrs l (pollWith .trust ((s.withSlot c v).withSlot d v')) := by
    rw [List.append_assoc, run_pseudoSet_append, run_pseudoSet_append, run_poll]
  generalize hu : (s.withSlot c v).withSlot d v' = u at htwo
  have hv : u.markValid = true := by rw [← hu, withSlot_markValid]
  have hslot : u.markSlot = d := by rw [← hu, withSlot_markSlot]
  have hd : u.pendingRaw d = v' := by rw [← hu, withSlot_pendingRaw_same]
  have hc : u.pendingRaw c = v := by rw [← hu, withSlot_pendingRaw_other _ _ _ hne, withSlot_pendingRaw_same]
  have hcd : c ≠ u.markSlot := hslot ▸ hne
  refine ⟨⟨pollWith .trust u, htwo [], ?_, ?_, pollWith_markValid _ u, ?_, ?_, ?_⟩, ?again⟩
  · rw [poll_offTimeOf hv hslot, hd]
  · rw [poll_acceptedRaw hv hslot, hd]
  · rw [poll_offTimeOf_other u hcd, ← hu, withSlot_offTimeOf, withSlot_offTimeOf]
  · rw [poll_acceptedRaw_other u hcd, ← hu, withSlot_acceptedRaw, withSlot_acceptedRaw]
  · rw [pollWith_pendingRaw, hc]
  case again =>
    have hq : (((pollWith .trust u).writeRx (lowAddr c) (loByte v)).setMark c).pendingRaw c = v := by
      rw [State.setMark_pendingRaw, pendingRaw_writeRx_low, readRx_high_eq, pollWith_pendingRaw, hc, join_hiByte_loByte]
    refine ⟨pollWith .trust (((pollWith .trust u).writeRx (lowAddr c) (loByte v)).setMark c), ?_, ?_, ?_⟩
    · rw [htwo, runInstrs_cons_of_next (exec_wrL _ _ _), channelOf_lowAddr, run_poll, runInstrs_nil]
    · rw [poll_offTimeOf (State.setMark_markValid _ c) (State.setMark_markSlot _ c), hq]
    · rw [poll_acceptedRaw (State.setMark_markValid _ c) (State.setMark_markSlot _ c), hq]

/-- Settles O17: the last of the four `SET`s has the marker. -/
theorem fullRefreshCommitsOnlyTheLastSlot : Obligations.FullRefreshCommitsOnlyTheLastSlot := by
  intro s v0 v1 v2 v3
  refine ⟨rfl, ?_⟩
  have hrun : runInstrs (pseudoRefresh v0 v1 v2 v3 ++ [.poll]) s =
      .next (pollWith .trust ((((s.withSlot 0 v0).withSlot 1 v1).withSlot 2 v2).withSlot 3 v3)) := by
    simp only [pseudoRefresh, List.append_assoc, run_pseudoSet_append]
    rw [run_poll, runInstrs_nil]
  refine ⟨_, hrun, ?_, ?_, fun c hc => ⟨?_, ?_⟩⟩
  · rw [poll_offTimeOf (withSlot_markValid _ 3 v3) (withSlot_markSlot _ 3 v3), withSlot_pendingRaw_same]
  · rw [poll_acceptedRaw (withSlot_markValid _ 3 v3) (withSlot_markSlot _ 3 v3), withSlot_pendingRaw_same]
  · rw [poll_offTimeOf_other _ (by rwa [withSlot_markSlot])]
    simp only [withSlot_offTimeOf]
  · rw [poll_acceptedRaw_other _ (by rwa [withSlot_markSlot])]
    simp only [withSlot_acceptedRaw]

/-- Settles O18: the low byte marks its slot with whatever high byte stands there. -/
theorem orphanLowByteCommitsTheStaleHighByte : Obligations.OrphanLowByteCommitsTheStaleHighByte := by
  intro s c b
  let u := (s.writeRx (lowAddr c) b).setMark c
  have hu : u.pendingRaw c = join (s.readRx (highAddr c)) b := pendingRaw_writeRx_low s c b
  refine ⟨pollWith .trust u, ?_, ?_, ?_, pollWith_markValid _ u⟩
  · rw [runInstrs_cons_of_next (exec_wrL _ _ _), channelOf_lowAddr, run_poll, runInstrs_nil]
  · exact (poll_offTimeOf (s := u) rfl rfl).trans (congrArg (biased c) hu)
  · exact (poll_acceptedRaw (s := u) rfl rfl).trans hu

/-- Settles O19: the marker stays, and the slot's high byte is the one present at the `POLL`. -/
theorem lateHighByteIsCommittedWithTheOldLowByte : Obligations.LateHighByteIsCommittedWithTheOldLowByte := by
  intro s c v h
  let u := (s.withSlot c v).writeRx (highAddr c) h
  have hu : u.pendingRaw c = join h (loByte v) := by
    rw [pendingRaw_writeRx_high, ← loByte_join ((s.withSlot c v).readRx (highAddr c)) ((s.withSlot c v).readRx (lowAddr c))]
    exact congrArg (fun x => join h (loByte x)) (withSlot_pendingRaw_same s c v)
  refine ⟨pollWith .trust u, ?_, ?_, ?_⟩
  · rw [run_pseudoSet_append, runInstrs_cons_of_next (exec_wrH _ _ _), run_poll, runInstrs_nil]
  · exact (poll_offTimeOf (s := u) rfl rfl).trans (congrArg (biased c) hu)
  · exact (poll_acceptedRaw (s := u) rfl rfl).trans hu

/-! ### Reads (R122, R251, R252) -/

/-- Settles O15: the record update of the read is the one stated. -/
theorem rdReturnsTheAcceptedByte : Obligations.RdReturnsTheAcceptedByte := fun a s => exec_rd s a

theorem run_rd (s : State) (a : Addr) (l : List Instr) :
    runInstrs (.rd a :: l) s = runInstrs l (s.logRead a (s.readTx a)) := runInstrs_cons_of_next (exec_rd s a)

/-- `GET` returns the two bytes of the transmit bank. -/
theorem run_pseudoGet (s : State) (c : Channel) : runInstrs (pseudoGet c) s =
    .next ((s.logRead (highAddr c) (s.readTx (highAddr c))).logRead (lowAddr c) (s.readTx (lowAddr c))) := by
  rw [pseudoGet, run_rd, run_rd, runInstrs_nil, State.logRead_readTx]

/-- Settles O20: a `SET` leaves the transmit bank, the `POLL` between the two reads writes it. -/
theorem readsAreOldUntilThePollAndCanStraddleIt : Obligations.ReadsAreOldUntilThePollAndCanStraddleIt := by
  intro s c v
  refine ⟨?before, ?straddle⟩
  case before =>
    refine ⟨_, (run_pseudoSet_append s c v _).trans (run_pseudoGet _ c), ?_⟩
    simp
  case straddle =>
    let u := (s.withSlot c v).logRead (highAddr c) (s.readTx (highAddr c))
    have hu : (pollWith .trust u).readTx (lowAddr c) = loByte v := by
      rw [readTx_low_eq]
      exact congrArg loByte ((poll_acceptedRaw (s := u) rfl rfl).trans (withSlot_pendingRaw_same s c v))
    refine ⟨(pollWith .trust u).logRead (lowAddr c) (loByte v), ?_, ?_⟩
    · rw [run_pseudoSet_append, run_rd, withSlot_readTx, run_poll, run_rd, hu, runInstrs_nil]
    · simp [u]

/-! ### The round trip (R149) -/

/-- The states agree on the banks, the off-times and the marker. -/
structure SameProtocol (s t : State) : Prop where
  offTime : t.offTime = s.offTime
  rx : t.rx = s.rx
  tx : t.tx = s.tx
  markValid : t.markValid = s.markValid
  markSlot : t.markSlot = s.markSlot

theorem SameProtocol.trans {s t u : State} (h : SameProtocol s t) (h' : SameProtocol t u) : SameProtocol s u :=
  ⟨h'.offTime.trans h.offTime, h'.rx.trans h.rx, h'.tx.trans h.tx, h'.markValid.trans h.markValid,
    h'.markSlot.trans h.markSlot⟩

theorem sameProtocol_takeEvent (e : Event) (s : State) : SameProtocol s (takeEvent e s) := by constructor <;> simp

/-- Ticks, injected events and reads leave the protocol's state. -/
theorem sameProtocol_of_run {l : List Instr} {s t : State}
    (hl : ∀ i ∈ l, i = .tick ∨ i = .evtFs ∨ i = .evtOn ∨ i = .evtOff ∨ ∃ a, i = .rd a) (h : runInstrs l s = .next t) :
    SameProtocol s t := by
  refine runInstrs_keeps (P := SameProtocol s) (fun i hi u v huv hu => hu.trans ?_) h ⟨rfl, rfl, rfl, rfl, rfl⟩
  rcases hl i hi with rfl | rfl | rfl | rfl | ⟨a, rfl⟩
  · cases huv; constructor <;> simp
  · cases huv; exact sameProtocol_takeEvent .fs u
  · cases huv; exact sameProtocol_takeEvent .on u
  · cases huv; exact sameProtocol_takeEvent .off u
  · cases huv; exact ⟨rfl, rfl, rfl, rfl, rfl⟩

/-- Settles O27: what falls between leaves the banks, the off-times and the marker, so the slot holds `v` at the `POLL` and
the transmit bank holds it at the reads. -/
theorem roundTripUnderInterleaving : Obligations.RoundTripUnderInterleaving := by
  intro s c v l₁ l₂ l₃ hl
  obtain ⟨s₁, hs₁⟩ := runInstrs_completes l₁ (s.writeRx (highAddr c) (hiByte v))
  let u := (s₁.writeRx (lowAddr c) (loByte v)).setMark c
  obtain ⟨s₂, hs₂⟩ := runInstrs_completes l₂ u
  obtain ⟨s₃, hs₃⟩ := runInstrs_completes l₃ (pollWith .trust s₂)
  have k₁ := sameProtocol_of_run (fun i hi => hl i (by simp [hi])) hs₁
  have k₂ := sameProtocol_of_run (fun i hi => hl i (by simp [hi])) hs₂
  have k₃ := sameProtocol_of_run (fun i hi => hl i (by simp [hi])) hs₃
  have hrun : runInstrs ([.wrH (highAddr c) (hiByte v)] ++ l₁ ++ [.wrL (lowAddr c) (loByte v)] ++ l₂ ++ [.poll] ++ l₃ ++
      pseudoGet c) s = runInstrs (pseudoGet c) s₃ := by
    simp only [List.append_assoc, List.cons_append, List.nil_append]
    rw [runInstrs_cons_of_next (exec_wrH _ _ _), runInstrs_append_of_next hs₁, runInstrs_cons_of_next (exec_wrL _ _ _),
      channelOf_lowAddr, runInstrs_append_of_next hs₂, run_poll, runInstrs_append_of_next hs₃]
  have hpend : s₂.pendingRaw c = v := by
    rw [pendingRaw_congr k₂.rx, State.setMark_pendingRaw, pendingRaw_writeRx_low, readRx_congr k₁.rx,
      readRx_writeRx_same, join_hiByte_loByte]
  have hslot : s₂.markSlot = c := k₂.markSlot
  have hcommit : s₃.offTimeOf c = biased c v := by
    rw [offTimeOf_congr k₃.offTime, poll_offTimeOf k₂.markValid hslot, hpend]
  have hacc : s₃.acceptedRaw c = v := by
    rw [acceptedRaw_congr k₃.tx, poll_acceptedRaw k₂.markValid hslot, hpend]
  refine ⟨_, s₃.reads, hrun.trans (run_pseudoGet s₃ c), ?_, join_hiByte_loByte v, hcommit⟩
  simp [readTx_high_eq, readTx_low_eq, hacc]

end Sys2Proof.Machine
end

section
/-! PROOFS. Every operation completes, and with `POLL` weakly fair every completed update is committed
(spec/60_exceptions.md sections 4 and 9). -/

namespace Sys2Proof.Machine

/-- Slot `c` is marked and holds the low byte `b`. -/
def completed (c : Channel) (b : Byte) (s : State) : Prop :=
  s.markValid = true ∧ s.markSlot = c ∧ s.readRx (lowAddr c) = b

theorem completed_congr {c : Channel} {b : Byte} {s t : State} (hrx : t.rx = s.rx) (hv : t.markValid = s.markValid)
    (hc : t.markSlot = s.markSlot) (hs : completed c b s) : completed c b t := by
  rw [completed, hv, hc, readRx_congr hrx]
  exact hs

theorem completed_wrL (c : Channel) (b : Byte) (s : State) :
    completed c b ((s.writeRx (lowAddr c) b).setMark (channelOf (lowAddr c))) :=
  ⟨rfl, channelOf_lowAddr c, by rw [State.setMark_readRx, readRx_writeRx_same]⟩

/-- A well-formed `WR.H` stores at no low address (R61). -/
theorem lowAddr_ne_of_wrH {a : Addr} {b : Byte} (h : (Instr.wrH a b).wellFormed = true) (c : Channel) :
    lowAddr c ≠ a := fun e => by
  have hlow : isLow a = true := e ▸ isLow_lowAddr c
  have hhigh : isLow a = false := (Bool.not_eq_true' (isLow a)).mp h
  exact Bool.false_ne_true (hhigh.symm.trans hlow)

/-- A completion stays until a `POLL`, another `WR.L` or a `RESET`. -/
theorem completed_exec {i : Instr} {c : Channel} {b : Byte} {s t : State} (hs : completed c b s)
    (hwf : i.wellFormed = true) (hpoll : i ≠ .poll) (hwrL : ∀ a b, i ≠ .wrL a b) (hreset : i ≠ .reset)
    (h : exec i s = .next t) : completed c b t := by
  have event (e : Event) : completed c b (takeEvent e s) :=
    completed_congr (takeEvent_rx e s) (takeEvent_markValid e s) (takeEvent_markSlot e s) hs
  cases i with
  | tick => cases h; exact completed_congr (tick_rx s) (tick_markValid s) (tick_markSlot s) hs
  | wrH a x =>
    cases h
    obtain ⟨hv, hc, hb⟩ := hs
    exact ⟨hv, hc, by rw [readRx_writeRx_other s x (lowAddr_ne_of_wrH hwf c), hb]⟩
  | wrL a x => exact absurd rfl (hwrL a x)
  | rd a => cases h; exact hs
  | poll => exact absurd rfl hpoll
  | evtFs => cases h; exact event .fs
  | evtOn => cases h; exact event .on
  | evtOff => cases h; exact event .off
  | reset => exact absurd rfl hreset

theorem runFor_completes (σ : Schedule) (n : Nat) (s : State) : ∃ t, runFor σ n s = .next t :=
  runInstrs_completes _ s

/-- The update completed by operation `n` is still complete at every later operation up to the next `POLL`. -/
theorem completed_until_poll {σ : Schedule} {s : State} {n : Nat} {c : Channel} {b : Byte}
    (hwf : ∀ k, (σ k).wellFormed = true) (hn : σ n = .wrL (lowAddr c) b) (hquiet : undisturbedUntilPoll σ n) {m : Nat}
    (hm : n + 1 ≤ m) (hno : ∀ k, n < k → k < m → σ k ≠ .poll) : ∃ u, runFor σ m s = .next u ∧ completed c b u := by
  induction m, hm using Nat.le_induction with
  | base =>
    obtain ⟨u, hu⟩ := runFor_completes σ n s
    exact ⟨_, by rw [runFor_succ_of_next hu, hn, exec_wrL], completed_wrL c b u⟩
  | succ m hm ih =>
    obtain ⟨u, hu, hdone⟩ := ih fun k hk hkm => hno k hk (by omega)
    obtain ⟨hwrL, hreset⟩ := hquiet m hm fun k hk hkm => hno k hk (by omega)
    obtain ⟨t, ht⟩ := exec_completes (σ m) u
    exact ⟨t, by rw [runFor_succ_of_next hu, ht],
      completed_exec hdone (hwf m) (hno m hm (by omega)) hwrL hreset ht⟩

/-- Settles O12: `exec` answers a next state for every operation, and the first `POLL` after a completion finds it. -/
theorem everyOperationCompletes : Obligations.EveryOperationCompletes := by
  refine ⟨fun i s => ?completes, fun σ s n => runFor_completes σ n s, fun σ s n c b hwf hfair hn hquiet => ?committed⟩
  case completes =>
    obtain ⟨t, ht⟩ := exec_completes i s
    exact ⟨t, ht, fun hs => banksOk_exec hs ht⟩
  case committed =>
    have hex : ∃ m, n < m ∧ σ m = .poll := hfair (n + 1)
    classical
    obtain ⟨hlt, hpoll⟩ := Nat.find_spec hex
    have hfirst (k : Nat) (hk : n < k) (hkm : k < Nat.find hex) : σ k ≠ .poll := fun h => Nat.find_min hex hkm ⟨hk, h⟩
    obtain ⟨u, hu, hv, hc, hb⟩ := completed_until_poll (s := s) hwf hn hquiet hlt hfirst
    refine ⟨Nat.find hex, u, pollWith .trust u, hlt, hpoll, hu, ?_, hc, ?_, ?_, pollWith_markValid _ u⟩
    · rw [runFor_succ_of_next hu, hpoll, exec_poll]
    · rw [poll_offTimeOf hv hc, State.pendingRaw, hb]
    · rw [poll_acceptedRaw hv hc, State.pendingRaw, hb]

end Sys2Proof.Machine
end

section
/-! PROOFS. The phased `POLL` (spec/70_reset_and_hazards.md R248; not normative, D15). -/

namespace Sys2Proof.Machine

/-- The first phase with a slot marked latches the slot. -/
theorem advance_of_marked {p : Phased} (hp : p.phase = .examine) (hv : p.main.markValid = true) :
    p.advance = { p with slot := p.main.markSlot, phase := .latchHigh } := by
  simp only [Phased.advance, hp, hv, if_true]

/-- The first phase with no slot marked ends the `POLL`. -/
theorem advance_of_unmarked {p : Phased} (hp : p.phase = .examine) (hv : p.main.markValid = false) : p.advance = p := by
  simp only [Phased.advance, hp, hv, Bool.false_eq_true, if_false]

/-- Three phases latch the marked slot and its two bytes. -/
theorem run_three_of_marked {p : Phased} (hp : p.phase = .examine) (hv : p.main.markValid = true) :
    Phased.run 3 p = ⟨p.main, .commit, p.main.markSlot, p.main.readRx (highAddr p.main.markSlot),
      p.main.readRx (lowAddr p.main.markSlot)⟩ := by
  rw [Phased.run, advance_of_marked hp hv]
  rfl

/-- The last four phases commit, mirror and consume from the latches, whatever the receive bank and the marker hold. -/
theorem run_four_of_commit (s : State) (c : Channel) (hi lo : Byte) : Phased.run 4 ⟨s, .commit, c, hi, lo⟩ =
    ⟨(((s.commit c (biased c (join hi lo))).writeTx (highAddr c) hi).writeTx (lowAddr c) lo).clearMark, .examine, c, hi,
      lo⟩ := rfl

theorem run_add (m n : Nat) (p : Phased) : Phased.run (m + n) p = Phased.run n (Phased.run m p) := by
  induction m generalizing p with
  | zero => rw [Nat.zero_add, Phased.run]
  | succ m ih => rw [Nat.succ_add, Phased.run, ih, Phased.run]

/-- Settles O29: the phases do in order what the atomic `POLL` does, on the bytes of the marked slot. -/
theorem uninterruptedPhasedPollIsPoll : Obligations.UninterruptedPhasedPollIsPoll := by
  refine fun p hp => ⟨fun hv => ?marked, fun hv => ?unmarked⟩
  case marked =>
    rw [run_add 3 4, run_three_of_marked hp hv, run_four_of_commit, pollWith_of_marked .trust hv]
    refine ⟨?_, rfl⟩
    rw [commitSlot, State.mirror, admitted_trust, State.pendingRaw, hiByte_join, loByte_join]
  case unmarked => rw [Phased.run, advance_of_unmarked hp hv, Phased.run]

/-- Settles O30: the last four phases commit the latched bytes and clear the marker that the `WR.L` set. -/
theorem phasedPollCanClearAnUncommittedCompletion : Obligations.PhasedPollCanClearAnUncommittedCompletion := by
  intro p q a b hp hv hq
  rw [run_three_of_marked hp hv] at hq
  obtain rfl := (Option.some.inj hq).symm
  refine ⟨rfl, rfl, readRx_writeRx_same p.main a b, ?_, ?_, fun c hc => ?_⟩
  · rw [run_four_of_commit]; rfl
  · rw [run_four_of_commit]
    exact offTimeOf_commit_same _ _ _
  · rw [run_four_of_commit]
    exact offTimeOf_commit_other _ _ hc

end Sys2Proof.Machine
end

section
/-! PROOFS. Wire messages, ports and the error taxonomy (spec/30_encoding.md section 4; spec/10_state.md section 9;
spec/60_exceptions.md R213). -/

namespace Sys2Proof.Machine

/-! ### Messages (R96, R97) -/

theorem pseudoWr_wellFormed (a : Addr) (b : Byte) : (pseudoWr a b).wellFormed = true := by
  unfold pseudoWr
  split
  case isTrue h => exact h
  case isFalse h => exact (Bool.not_eq_true' (isLow a)).mpr (Bool.eq_false_iff.2 h)

theorem isLow_iff (a : Addr) : isLow a = true ↔ a.toNat % 2 = 1 := by revert a; decide

/-- The pseudo-operation `WR` by the parity of the address (R103). -/
theorem pseudoWr_eq (a : Addr) (b : Byte) : pseudoWr a b = if a.toNat % 2 = 0 then .wrH a b else .wrL a b := by
  unfold pseudoWr
  by_cases h : a.toNat % 2 = 0
  · rw [if_pos h, if_neg]
    rw [isLow_iff]
    omega
  · rw [if_neg h, if_pos]
    rw [isLow_iff]
    omega

theorem writesFrom_length (a : Nat) (data : List Byte) : (writesFrom a data).length = data.length := by
  induction data generalizing a with
  | nil => rfl
  | cons b data ih => rw [writesFrom, List.length_cons, ih, List.length_cons]

/-- The write of the data byte at a place of the message goes to the address that far from the first (D28). -/
theorem writesFrom_getElem? (a : Nat) (data : List Byte) (n : Nat) :
    (writesFrom a data)[n]? = data[n]?.map (pseudoWr (BitVec.ofNat 3 (a + n))) := by
  induction data generalizing a n with
  | nil => rfl
  | cons b data ih =>
    cases n with
    | zero => rfl
    | succ n => rw [writesFrom, List.getElem?_cons_succ, List.getElem?_cons_succ, ih, Nat.succ_add, Nat.add_succ]

/-- A message with data is expanded or refused by whether its last address is at most 7. -/
theorem expandMessage_of_data (m0 : Byte) {data : List Byte} (h : data ≠ []) : expandMessage (m0 :: data) =
    if m0.toNat + data.length ≤ 8 then .ok (writesFrom m0.toNat data) else .error .messagePastEnd := by
  cases data with
  | nil => exact absurd rfl h
  | cons b data =>
    have hlen : (b :: data).length = data.length + 1 := List.length_cons
    have hiff : (m0.toNat ≤ 7 ∧ m0.toNat + (b :: data).length - 1 ≤ 7) ↔ m0.toNat + (b :: data).length ≤ 8 := by omega
    simp only [expandMessage, hiff]

/-- Settles O59: the addresses stay below 8, so the parity of the address is that of its number. -/
theorem messageExpandsToConsecutiveWrites : Obligations.MessageExpandsToConsecutiveWrites := by
  intro m0 data hdata
  rw [expandMessage_of_data m0 hdata]
  refine ⟨fun hfit => ?fits, fun hpast => if_neg (by omega)⟩
  case fits =>
    refine ⟨_, if_pos hfit, writesFrom_length _ _, fun n b hb => ?_⟩
    have hn : n < data.length := (List.getElem?_eq_some_iff.1 hb).1
    have haddr : (BitVec.ofNat 3 (m0.toNat + n)).toNat = m0.toNat + n := by
      rw [BitVec.toNat_ofNat]; omega
    rw [writesFrom_getElem?, hb, Option.map_some]
    refine ⟨by rw [pseudoWr_eq, haddr], fun i hi => ?_⟩
    rw [← Option.some.inj hi]
    exact pseudoWr_wellFormed _ b

/-! ### Ports (R35, R104) -/

theorem event_ofCode_code (e : Event) : Event.ofCode e.code = some e := by cases e <;> rfl

/-- The requests a cycle presents beside `rst`, event code 3 aside: the write by the parity of its address, the read, the
`POLL`, the `TICK` and the injected event. -/
def PortCycle.presented (p : PortCycle) : List Instr :=
  (p.wr.map fun (a, b) => if a.toNat % 2 = 0 then Instr.wrH a b else .wrL a b).toList ++ (p.rd.map Instr.rd).toList ++
    (if p.poll then [.poll] else []) ++ (if p.tick then [.tick] else []) ++
    (if p.evt = some 0 then [.evtFs] else if p.evt = some 1 then [.evtOn] else if p.evt = some 2 then [.evtOff] else [])

theorem eventCode_cases (n : BitVec 2) : n = 3 ∨ ∃ e : Event, n = e.code := by
  have h : ∀ n : BitVec 2, n = 3 ∨ n = Event.fs.code ∨ n = Event.on.code ∨ n = Event.off.code := by decide
  rcases h n with h | h | h | h
  · exact .inl h
  · exact .inr ⟨_, h⟩
  · exact .inr ⟨_, h⟩
  · exact .inr ⟨_, h⟩

theorem PortCycle.requests_eq {p : PortCycle} (h : p.evt ≠ some 3) : p.requests = .ok p.presented := by
  obtain ⟨wr, rd, poll, tick, evt, rst⟩ := p
  cases evt with
  | none => rcases wr with _ | ⟨a, b⟩ <;> cases rd <;> simp [PortCycle.requests, PortCycle.presented, pseudoWr_eq]
  | some n =>
    rcases eventCode_cases n with rfl | ⟨e, rfl⟩
    · exact absurd rfl h
    · have hevt : [e.injected] = if e.code = 0#2 then [.evtFs] else if e.code = 1#2 then [.evtOn]
          else if e.code = 2#2 then [.evtOff] else [] := by cases e <;> rfl
      rcases wr with _ | ⟨a, b⟩ <;> cases rd <;>
        simp [PortCycle.requests, PortCycle.presented, pseudoWr_eq, event_ofCode_code, hevt]

theorem PortCycle.requests_of_code_three {p : PortCycle} (h : p.evt = some 3) :
    p.requests = .error .reservedEventCode := by
  simp only [PortCycle.requests, h]
  rfl

theorem PortCycle.admits_of_rst {p : PortCycle} (h : p.rst = true) (l : List Instr) : p.Admits l ↔ l = [.reset] := by
  rw [PortCycle.Admits, if_pos h]

theorem PortCycle.admits_of_no_rst {p : PortCycle} (h : p.rst = false) (l : List Instr) :
    p.Admits l ↔ ∃ l', p.requests = .ok l' ∧ l.Perm l' := by
  rw [PortCycle.Admits, h, if_neg Bool.false_ne_true]

/-- Settles O60: with `rst` the definition's first branch; without it the requests are those presented, or refused with
event code 3. -/
theorem portCycleAdmitsEveryOrderAndResetOverrides : Obligations.PortCycleAdmitsEveryOrderAndResetOverrides := by
  refine ⟨fun p l h => PortCycle.admits_of_rst h l, fun p l h h3 => ?presented, fun p h3 => ?refused, by decide,
    fun e => ⟨event_ofCode_code e, by cases e <;> decide⟩⟩
  case presented =>
    rw [PortCycle.admits_of_no_rst h, PortCycle.requests_eq h3]
    refine ⟨fun ⟨l', hl', hperm⟩ => ?_, fun hperm => ⟨_, rfl, hperm⟩⟩
    rw [← Except.ok.inj hl'] at hperm
    exact hperm
  case refused =>
    have hreq := PortCycle.requests_of_code_three h3
    refine ⟨hreq, fun h l hl => ?_⟩
    obtain ⟨l', hl', -⟩ := (PortCycle.admits_of_no_rst h l).1 hl
    rw [hreq] at hl'
    cases hl'

/-! ### DESYNC (R213) -/

/-- The latest operation decides whether a high byte waits, if it writes the slot or resets the block. -/
theorem highByteWaiting_of_hit {c : Channel} {h : List Instr} {i : Instr}
    (hi : writesSlot c i = true ∨ i = .reset) : highByteWaiting c (h ++ [i]) = highByteWaiting c [i] := by
  have hp : (writesSlot c i || decide (i = .reset)) = true := by simpa using hi
  simp only [highByteWaiting, List.reverse_append, List.reverse_singleton, List.singleton_append, List.find?_cons, hp]

/-- Any other operation leaves that as it was. -/
theorem highByteWaiting_of_miss {c : Channel} {h : List Instr} {i : Instr} (hi : writesSlot c i = false)
    (hreset : i ≠ .reset) : highByteWaiting c (h ++ [i]) = highByteWaiting c h := by
  have hp : (writesSlot c i || decide (i = .reset)) = false := by simpa [hi] using hreset
  simp only [highByteWaiting, List.reverse_append, List.reverse_singleton, List.singleton_append, List.find?_cons, hp]

theorem orphanLow_wrL (h : List Instr) (c : Channel) (lo : Byte) :
    orphanLow h (.wrL (lowAddr c) lo) = !highByteWaiting c h := by
  rw [orphanLow, channelOf_lowAddr]

/-- Settles O48: the search for the latest write of the slot meets the last operation first; a `SET` marks and a `POLL`
clears. -/
theorem desyncIsAnOrphanLowByteOrAnOverrun : Obligations.DesyncIsAnOrphanLowByteOrAnOverrun := by
  refine ⟨fun h c hi lo => ⟨?_, ?_, ?_⟩, fun h i c lo hw hne => ?other, fun s c d v b => ⟨?set, ?update⟩,
    fun h s i => by rw [desync, Bool.or_eq_true]⟩
  · rw [orphanLow_wrL, highByteWaiting_of_hit (.inl (by simp [writesSlot]))]
    simp [highByteWaiting, writesSlot]
  · rw [orphanLow_wrL, highByteWaiting_of_hit (.inl (by simp [writesSlot]))]
    simp [highByteWaiting, writesSlot]
  · rw [orphanLow_wrL, highByteWaiting_of_hit (.inr rfl)]
    simp [highByteWaiting]
  case other => rw [orphanLow_wrL, orphanLow_wrL, highByteWaiting_of_miss hw hne]
  case set => exact ⟨_, run_pseudoSet s c v, rfl⟩
  case update =>
    refine ⟨pollWith .trust (s.withSlot c v), ?_, pollWith_markValid _ _⟩
    rw [pseudoUpdate, run_pseudoSet_append, run_poll, runInstrs_nil]

end Sys2Proof.Machine
end

section
/-! PROOFS. The frame scheduler, operation by operation (spec/42_frame_scheduler.md R160 to R173). -/

namespace Sys2Proof.Machine

/-- Settles O31: the three tests of the new counter value, in the order of the handlers. -/
theorem tickAdvancesAndRunsTheRaisedHandlersInOrder :
    Obligations.TickAdvancesAndRunsTheRaisedHandlersInOrder := by
  intro s
  rw [exec_tick, tick_eq_ifs]
  simp only [nextCount_toNat]
  rfl

/-- Settles O32: an injected event is the handler a tick takes, and no handler writes `CNT`. -/
theorem injectedEventRunsTheHandlerOfTheTick : Obligations.InjectedEventRunsTheHandlerOfTheTick :=
  fun e s => ⟨exec_injected e s, takeEvent_cnt e s⟩

/-- Settles O33: the handler's assignments as one record update. -/
theorem evtFsStartsAFrame : Obligations.EvtFsStartsAFrame := fun s => ⟨by decide, exec_evtFs s⟩

/-- `EVT.ON` changes the on queue, the pins and the trace only. -/
theorem onEvent_frame (s : State) : takeEvent .on s = { s with
    onCounter := (takeEvent .on s).onCounter, onCmp := (takeEvent .on s).onCmp, pin := (takeEvent .on s).pin,
    trace := (takeEvent .on s).trace } := by
  simp only [takeEvent, onEvent]
  rw [raiseHead_frame]
  rfl

/-- `EVT.OFF` changes the off queue, the pins and the trace only. -/
theorem offEvent_frame (s : State) : takeEvent .off s = { s with
    offCounter := (takeEvent .off s).offCounter, offCmp := (takeEvent .off s).offCmp, pin := (takeEvent .off s).pin,
    trace := (takeEvent .off s).trace } := by
  simp only [takeEvent, offEvent]
  rw [lowerHead_frame]
  rfl

/-- Settles O34: by whether a channel is at the head of the on queue. -/
theorem evtOnRaisesTheHeadOfTheOnQueue : Obligations.EvtOnRaisesTheHeadOfTheOnQueue := by
  intro s
  refine ⟨takeEvent .on s, exec_evtOn s, advance_val _, onTime_toNat _, fun c hc => ?channel, fun h4 => ?empty,
    onEvent_frame s⟩
  case channel => rw [onEvent_of_channel s hc]; exact ⟨rfl, rfl⟩
  case empty => rw [onEvent_of_empty s h4]; exact ⟨rfl, rfl⟩

/-- Settles O35: by whether a channel is at the head of the off queue; the reload reads the entry of the new head. -/
theorem evtOffLowersTheHeadOfTheOffQueue : Obligations.EvtOffLowersTheHeadOfTheOffQueue := by
  intro s
  refine ⟨takeEvent .off s, exec_evtOff s, advance_val _, fun c hc => ?reload, fun c hc => ?channel, fun h4 => ?empty,
    offEvent_frame s⟩
  case reload => rw [Fin.ext (hc.trans (wrapHead_val _).symm), takeEvent_off_offCmp, takeEvent_off_offCounter]
  case channel => rw [offEvent_of_channel s hc]; exact ⟨rfl, rfl⟩
  case empty => rw [offEvent_of_empty s h4]; exact ⟨rfl, rfl⟩

/-- Settles O36: the counter has 15 bits, so its value is below 32768. -/
theorem compareOfAFramePeriodOrMoreNeverMatches : Obligations.CompareOfAFramePeriodOrMoreNeverMatches := by
  refine ⟨onTime_toNat, fun s => ⟨fun h hm => ?_, fun h hm => ?_⟩⟩
  · have := mem_raised_on.1 hm
    have := (nextCount s.cnt).isLt
    omega
  · have := mem_raised_off.1 hm
    have := (nextCount s.cnt).isLt
    omega

/-- Settles O37: at the boundary `EVT.FS` and then `EVT.OFF` run, inside the frame `EVT.ON` and then `EVT.OFF`, each pair
on one channel. -/
theorem zeroDutyRaisesAndLowersInOneTick : Obligations.ZeroDutyRaisesAndLowersInOneTick := by
  refine ⟨fun s hcnt hon hoff => ⟨tick s, exec_tick s, ?boundary⟩,
    fun s c hc hcnt hon hoff honc hoffc => ⟨tick s, exec_tick s, ?inside⟩⟩
  case boundary =>
    have hz : s.offCmp.toNat = 0 := by rw [hoff]; rfl
    obtain ⟨-, -, -, -, hoffc, hcmp, hpin, htrace⟩ := startTick hcnt hon
    rw [if_pos hz] at hoffc hcmp htrace
    exact ⟨htrace, by simpa [hz] using hpin 0, hoffc, hcmp⟩
  case inside =>
    have hlt := c.isLt
    have hlast : s.cnt.toNat ≠ 32767 := by omega
    have hmon : s.cnt.toNat + 1 = s.onCmp.toNat := hcnt.trans hon.symm
    have hmoff : s.cnt.toNat + 1 = s.offCmp.toNat := hcnt.trans hoff.symm
    have hin := insideTick hlast
    have htrace := hin.trace
    have hpin := hin.pin c
    rw [if_pos hmon, if_pos hmoff, headChannel_of_lt honc.symm, headChannel_of_lt hoffc.symm] at htrace
    rw [if_pos ⟨hmoff, headChannel_of_lt hoffc.symm⟩] at hpin
    refine ⟨by rw [htrace, tick_cnt]; rfl, hpin, ?_, ?_⟩
    · rw [hin.onCounter, if_pos hmon, advance_val]; omega
    · rw [hin.offCounter, if_pos hmoff, advance_val]; omega

/-- Settles O38: each row is its handler with a channel at the head. -/
theorem transitionTableRows : Obligations.TransitionTableRows := by
  refine ⟨fun s _ => ⟨rfl, rfl, rfl, rfl, rfl⟩, fun s c hon hoff => ?off, fun s c _ hon hoff => ?on⟩
  case off =>
    have hnext : wrapHead (advance s.offCounter) = c + 1 := Fin.ext (by
      rw [wrapHead_val, advance_val, Fin.val_add, ← hoff]
      have := c.isLt
      simp only [Fin.val_one]
      omega)
    rw [takeEvent_off_trace, headChannel_of_lt hoff.symm, takeEvent_off_offCmp, hnext]
    refine ⟨takeEvent_off_onCounter s, ?_, rfl, takeEvent_off_onCmp s, rfl⟩
    rw [takeEvent_off_offCounter, advance_val]
    omega
  case on =>
    rw [takeEvent_on_trace, headChannel_of_lt hon.symm, takeEvent_on_onCmp, onTime_toNat, takeEvent_on_onCounter,
      advance_val]
    refine ⟨by omega, takeEvent_on_offCounter s, rfl, by omega, takeEvent_on_offCmp s⟩

/-! ### One default frame (R176) -/

/-- The state without the observations of its edges. -/
def State.unobserved (s : State) : State := { s with trace := [], frame := -1 }

/-- No handler reads the trace or the frame number (log 3). -/
theorem takeEvent_unobserved (e : Event) (s : State) :
    (takeEvent e s).unobserved = (takeEvent e s.unobserved).unobserved := by
  cases e with
  | fs => rfl
  | on => rcases head_cases s.onCounter with ⟨c, -, h⟩ | ⟨-, h⟩ <;>
      simp only [takeEvent, onEvent, State.unobserved, State.raiseHead, h] <;> rfl
  | off => rcases head_cases s.offCounter with ⟨c, -, h⟩ | ⟨-, h⟩ <;>
      simp only [takeEvent, offEvent, State.unobserved, State.lowerHead, h] <;> rfl

theorem takeEvents_unobserved (es : List Event) {s t : State} (h : s.unobserved = t.unobserved) :
    (takeEvents es s).unobserved = (takeEvents es t).unobserved := by
  induction es generalizing s t with
  | nil => exact h
  | cons e es ih =>
    apply ih
    rw [takeEvent_unobserved, h, ← takeEvent_unobserved]

theorem tick_unobserved {s t : State} (h : s.unobserved = t.unobserved) : (tick s).unobserved = (tick t).unobserved := by
  have hraised : s.raisedByTick = t.raisedByTick :=
    show s.unobserved.raisedByTick = t.unobserved.raisedByTick by rw [h]
  have hcnt : (s.setCnt (nextCount s.cnt)).unobserved = (t.setCnt (nextCount t.cnt)).unobserved :=
    show s.unobserved.setCnt (nextCount s.unobserved.cnt) = t.unobserved.setCnt (nextCount t.unobserved.cnt) by rw [h]
  rw [tick, tick, hraised]
  exact takeEvents_unobserved _ hcnt

/-- The reset state with a row's values. -/
def FrameRow.state (r : FrameRow) : State :=
  { State.reset with cnt := r.cnt, pin := r.pin, onCounter := r.onCounter, offCounter := r.offCounter, onCmp := r.onCmp,
                     offCmp := r.offCmp }

/-- That many ticks from `RESET` lead to the row's values. -/
def FrameRow.reached (r : FrameRow) : Prop :=
  ∃ t, runInstrs (pseudoTicks r.ticks) State.reset = .next t ∧ t.unobserved = r.state

theorem FrameRow.reached_tick {r r' : FrameRow} (h : r.reached) (hn : r'.ticks = r.ticks + 1)
    (ht : (tick r.state).unobserved = r'.state) : r'.reached := by
  obtain ⟨t, hrun, hrow⟩ := h
  refine ⟨tick t, ?_, ?_⟩
  · rw [hn, pseudoTicks, List.replicate_succ', ← pseudoTicks, runInstrs_append_of_next hrun, runInstrs_singleton, exec_tick]
  · rw [tick_unobserved (t := r.state) hrow, ht]

/-- The row some ticks later, if none of them raises an event. -/
def FrameRow.later (r : FrameRow) (n : Nat) : FrameRow :=
  { r with ticks := r.ticks + n, cnt := BitVec.ofNat 15 (r.cnt.toNat + n) }

/-- The compare value is not among the next `n` counter values. -/
abbrev missed (t : Count) (n : Nat) (v : CmpWord) : Prop := v.toNat ≤ t.toNat ∨ t.toNat + n < v.toNat

theorem missed_succ {t : Count} {n : Nat} {v : CmpWord} (h : missed t (n + 1) v) : t.toNat + n + 1 ≠ v.toNat := by
  rcases h with h | h <;> omega

theorem FrameRow.reached_later {r : FrameRow} (h : r.reached) {n : Nat} (hlast : r.cnt.toNat + n < 32768)
    (hon : missed r.cnt n r.onCmp) (hoff : missed r.cnt n r.offCmp) : (r.later n).reached := by
  induction n with
  | zero =>
    have hcnt : BitVec.ofNat 15 (r.cnt.toNat + 0) = r.cnt := by rw [Nat.add_zero, BitVec.ofNat_toNat, BitVec.setWidth_eq]
    rwa [FrameRow.later, hcnt]
  | succ n ih =>
    have hcnt : (BitVec.ofNat 15 (r.cnt.toNat + n)).toNat = r.cnt.toNat + n := by rw [BitVec.toNat_ofNat]; omega
    have hnext : (nextCount (BitVec.ofNat 15 (r.cnt.toNat + n))).toNat = r.cnt.toNat + n + 1 := by
      rw [nextCount_of_inside (by omega), hcnt]
    have hquiet : tick (r.later n).state = (r.later n).state.setCnt (nextCount (BitVec.ofNat 15 (r.cnt.toNat + n))) :=
      tick_of_quiet (s := (r.later n).state) (hnext.trans_ne (by omega)) (hnext.trans_ne (missed_succ hon))
        (hnext.trans_ne (missed_succ hoff))
    refine FrameRow.reached_tick (ih (by omega) (by omega) (by omega)) rfl ?_
    rw [hquiet, show nextCount (BitVec.ofNat 15 (r.cnt.toNat + n)) = BitVec.ofNat 15 (r.cnt.toNat + (n + 1)) from
      BitVec.eq_of_toNat_eq (by rw [hnext, BitVec.toNat_ofNat]; omega)]
    rfl

/-- From one row to another: ticks that raise no event, and one last tick. -/
abbrev FrameRow.leadsTo (r r' : FrameRow) : Prop :=
  r'.ticks = r.ticks + (r'.ticks - r.ticks - 1) + 1 ∧ r.cnt.toNat + (r'.ticks - r.ticks - 1) < 32768 ∧
    missed r.cnt (r'.ticks - r.ticks - 1) r.onCmp ∧ missed r.cnt (r'.ticks - r.ticks - 1) r.offCmp ∧
    (tick (r.later (r'.ticks - r.ticks - 1)).state).unobserved = r'.state

theorem FrameRow.reached_of_leadsTo {r r' : FrameRow} (h : r.reached) (hr : r.leadsTo r') : r'.reached := by
  obtain ⟨hn, hlast, hon, hoff, ht⟩ := hr
  exact FrameRow.reached_tick (FrameRow.reached_later h hlast hon hoff) hn ht

/-- The row of `RESET`. -/
def resetRow : FrameRow := ⟨0, 32767, #v[false, false, false, false], 1, 0, 8192, 4096⟩

theorem defaultFrameRows_chain : List.IsChain FrameRow.leadsTo (resetRow :: defaultFrameRows) := by decide

theorem reached_of_chain {r : FrameRow} {l : List FrameRow} (hl : List.IsChain FrameRow.leadsTo (r :: l))
    (h : r.reached) : ∀ r' ∈ l, r'.reached := by
  induction l generalizing r with
  | nil => simp
  | cons r₁ l ih =>
    obtain ⟨hr, hl⟩ := List.isChain_cons_cons.1 hl
    have h₁ := FrameRow.reached_of_leadsTo h hr
    exact List.forall_mem_cons.2 ⟨h₁, ih hl h₁⟩

/-- Settles O55: from each row to the next only the last tick raises an event, if any does. -/
theorem defaultFrameTable : Obligations.DefaultFrameTable := by
  intro r hr
  obtain ⟨t, hrun, hrow⟩ := reached_of_chain defaultFrameRows_chain ⟨State.reset, rfl, rfl⟩ r hr
  refine ⟨t, hrun, ?_⟩
  exact congrArg (fun u : State => { u with trace := t.trace, frame := t.frame }) hrow

end Sys2Proof.Machine
end

section
/-! PROOFS. The access matrix and the two sides that share no state (spec/10_state.md section 8). -/

namespace Sys2Proof.Machine

/-- What a scheduler operation does to a state, and that it neither reads nor writes what the bus operations do (R34). -/
structure SchedulerOp (j : Instr) (f : State → State) : Prop where
  exec : ∀ s, exec j s = .next (f s)
  withBus : ∀ s rx v c r, f (State.withBus s rx v c r) = (f s).withBus rx v c r
  rx : ∀ s, (f s).rx = s.rx
  tx : ∀ s, (f s).tx = s.tx
  markValid : ∀ s, (f s).markValid = s.markValid
  markSlot : ∀ s, (f s).markSlot = s.markSlot
  reads : ∀ s, (f s).reads = s.reads

theorem schedulerOp_tick : SchedulerOp .tick tick :=
  ⟨exec_tick, fun s rx v c r => tick_withBus rx v c r s, tick_rx, tick_tx, tick_markValid, tick_markSlot, tick_reads⟩

theorem schedulerOp_injected (e : Event) : SchedulerOp e.injected (takeEvent e) :=
  ⟨exec_injected e, fun s rx v c r => takeEvent_withBus rx v c r e s, takeEvent_rx e, takeEvent_tx e,
    takeEvent_markValid e, takeEvent_markSlot e, takeEvent_reads e⟩

theorem schedulerOp_of_scheduler {j : Instr} (h : j = .tick ∨ j = .evtFs ∨ j = .evtOn ∨ j = .evtOff) :
    ∃ f, SchedulerOp j f := by
  rcases scheduler_cases h with rfl | ⟨e, rfl⟩
  · exact ⟨tick, schedulerOp_tick⟩
  · exact ⟨takeEvent e, schedulerOp_injected e⟩

/-- A bus operation writes the bus side, with values that depend on the two banks, the marker and the reads only. -/
theorem exec_bus {i : Instr} (hi : i.agent = .bus) (s : State) : ∃ rx v c r, exec i s = .next (s.withBus rx v c r) ∧
    ∀ t : State, t.rx = s.rx → t.tx = s.tx → t.markValid = s.markValid → t.markSlot = s.markSlot → t.reads = s.reads →
      exec i t = .next (t.withBus rx v c r) := by
  cases i with
  | wrH a b =>
    refine ⟨s.rx.write a.toNat b, s.markValid, s.markSlot, s.reads, rfl, fun t hrx _ hv hc hr => ?_⟩
    rw [← hrx, ← hv, ← hc, ← hr]; rfl
  | wrL a b =>
    refine ⟨s.rx.write a.toNat b, true, channelOf a, s.reads, rfl, fun t hrx _ _ _ hr => ?_⟩
    rw [← hrx, ← hr]; rfl
  | rd a =>
    refine ⟨s.rx, s.markValid, s.markSlot, s.reads ++ [⟨a, s.readTx a⟩], rfl, fun t hrx htx hv hc hr => ?_⟩
    rw [← hrx, ← hv, ← hc, ← hr, ← readTx_congr htx]; rfl
  | tick => cases hi
  | poll => cases hi
  | evtFs => cases hi
  | evtOn => cases hi
  | evtOff => cases hi
  | reset => cases hi

/-- Settles O40: the scheduler operation leaves what the bus operation reads, and keeps what it has written. -/
theorem busAndSchedulerOperationsCommute : Obligations.BusAndSchedulerOperationsCommute := by
  intro i j s hi hj
  obtain ⟨f, hf⟩ := schedulerOp_of_scheduler hj
  obtain ⟨rx, v, c, r, hs, hother⟩ := exec_bus hi s
  have hfs := hother (f s) (hf.rx s) (hf.tx s) (hf.markValid s) (hf.markSlot s) (hf.reads s)
  rw [runInstrs_cons_of_next hs, runInstrs_cons_of_next (hf.exec s), runInstrs_singleton, runInstrs_singleton, hf.exec,
    hf.withBus, hfs]

/-- A `POLL` writes no byte of the transmit bank outside the marked slot. -/
theorem channelOf_eq_of_poll_readTx {s : State} {a : Addr} (h : (pollWith .trust s).readTx a ≠ s.readTx a) :
    channelOf a = s.markSlot := by
  by_contra hne
  exact h (pollWith_readTx_other .trust s hne)

/-- A write stores at its own address only. -/
theorem eq_of_writeRx_readRx {s : State} {a x : Addr} {b : Byte} (h : (s.writeRx a b).readRx x ≠ s.readRx x) : x = a := by
  by_contra hne
  exact h (readRx_writeRx_other s b hne)

/-- Settles O39: operation by operation, the elements it leaves are those of its frame. -/
theorem accessMatrixWrites : Obligations.AccessMatrixWrites := by
  intro i s t h
  cases i with
  | tick => cases h; simp
  | wrH a b =>
    cases h
    have hx (x : Addr) (hx : (s.writeRx a b).readRx x ≠ s.readRx x) : a = x := (eq_of_writeRx_readRx hx).symm
    simpa using hx
  | wrL a b =>
    cases h
    have hx (x : Addr) (hx : (s.writeRx a b).readRx x ≠ s.readRx x) : a = x := (eq_of_writeRx_readRx hx).symm
    simpa using hx
  | rd a => cases h; simp
  | poll =>
    cases h
    have hx (x : Addr) (hx : (pollWith Config.clampMode s).readTx x ≠ s.readTx x) : channelOf x = s.markSlot :=
      channelOf_eq_of_poll_readTx hx
    simpa using hx
  | evtFs => cases h; simp
  | evtOn => cases h; simp
  | evtOff => cases h; simp
  | reset => simp

end Sys2Proof.Machine
end

section
/-! PROOFS. Frames that break the contract: a stalled and a stale off queue (spec/70_reset_and_hazards.md R250, R257;
spec/42_frame_scheduler.md R175). What the on queue does in them is what it does in every frame. -/

namespace Sys2Proof.Machine

/-! ### Frames by their ticks -/

theorem throughout_cons_inv {P : State → Prop} {i : Instr} {l : List Instr} {s t : State} (h : Throughout P (i :: l) s)
    (hi : exec i s = .next t) : P s ∧ Throughout P l t :=
  ⟨h [] (i :: l) s rfl rfl, fun l₁ l₂ u hl hu => h (i :: l₁) l₂ u (by rw [hl]; rfl) (by rw [runInstrs_cons_of_next hi, hu])⟩

section
variable {P Q : State → Prop} (hother : ∀ u v, SameScheduler u v → P u → P v)
  (hinside : ∀ u, u.cnt.toNat ≠ 32767 → Q u → P u → P (tick u))
include hother hinside

/-- To the end of a frame: what the ticks inside the frame keep, and no other operation can change, holds at the end. -/
theorem run_to_frame_end {l : List Instr} {s : State} (hl : ∀ i ∈ l, freeRunning i = true) (hQ : Throughout Q l s)
    (hcnt : s.cnt.toNat + l.count .tick = 32767) (hs : P s) :
    ∃ t, runInstrs l s = .next t ∧ P t ∧ t.cnt.toNat = 32767 := by
  induction l generalizing s with
  | nil => exact ⟨s, rfl, hs, hcnt⟩
  | cons i l ih =>
    obtain ⟨hi, hrest⟩ := List.forall_mem_cons.1 hl
    by_cases htick : i = .tick
    case pos =>
      subst htick
      rw [List.count_cons_self] at hcnt
      have hlast : s.cnt.toNat ≠ 32767 := by omega
      obtain ⟨hQs, hQ⟩ := throughout_cons_inv hQ (exec_tick s)
      rw [runInstrs_cons_of_next (exec_tick s)]
      exact ih hrest hQ (by rw [(insideTick hlast).cnt]; omega) (hinside s hlast hQs hs)
    case neg =>
      obtain ⟨s', hs'⟩ := exec_completes i s
      have hsame := sameScheduler_of_freeRunning hi htick hs'
      rw [List.count_cons_of_ne htick] at hcnt
      rw [runInstrs_cons_of_next hs']
      exact ih hrest (throughout_cons_inv hQ hs').2 (by rwa [hsame.cnt]) (hother s s' hsame hs)

/-- A whole frame: what its first tick establishes and the ticks inside it keep holds at its end. -/
theorem run_frame {l : List Instr} {s : State} (hl : ∀ i ∈ l, freeRunning i = true) (hQ : Throughout Q l s)
    (hs : s.cnt.toNat = 32767) (hcnt : l.count .tick = 32768) (hstart : ∀ u, SameScheduler s u → Q u → P (tick u)) :
    ∃ t, runInstrs l s = .next t ∧ P t ∧ t.cnt.toNat = 32767 := by
  have htick : Instr.tick ∈ l := List.count_pos_iff.1 (by omega)
  obtain ⟨l₁, l₂, rfl, hfirst⟩ := List.eq_append_cons_of_mem htick
  obtain ⟨u, hu⟩ := runInstrs_completes l₁ s
  have hsame := sameScheduler_of_run
    (fun i hi => ⟨hl i (List.mem_append_left _ hi), fun q => hfirst (q ▸ hi)⟩) hu
  have hcnt0 : (tick u).cnt.toNat = 0 := by rw [tick_cnt, nextCount_toNat, hsame.cnt, hs]
  rw [List.count_append, List.count_cons_self, List.count_eq_zero.2 hfirst] at hcnt
  rw [runInstrs_append_of_next hu, runInstrs_cons_of_next (exec_tick u)]
  refine run_to_frame_end hother hinside (fun i hi => hl i (List.mem_append_right _ (List.mem_cons_of_mem _ hi)))
    (fun m₁ m₂ v hm hv => hQ (l₁ ++ .tick :: m₁) m₂ v ?_ ?_) (by omega)
    (hstart u hsame (hQ l₁ _ u rfl hu))
  · rw [hm, List.append_assoc]; rfl
  · rw [runInstrs_append_of_next hu, runInstrs_cons_of_next (exec_tick u), hv]
end

/-! ### The on queue inside a frame -/

/-- The on queue stands one past the window's channel, whatever the off queue does (R163, R171). -/
def onQueueInFrame (s : State) : Prop :=
  s.onCounter.val = (windowChannel s.cnt).val + 1 ∧ s.onCmp = onTime s.onCounter

theorem onQueueInFrame_congr {s t : State} (h : SameScheduler s t) (hs : onQueueInFrame s) : onQueueInFrame t := by
  rw [onQueueInFrame, h.onCounter, h.cnt, h.onCmp]
  exact hs

theorem onQueueInFrame_start {s t : State} (h : StartTick s t) : onQueueInFrame t := by
  refine ⟨?_, by rw [h.onCmp, h.onCounter]⟩
  rw [h.onCounter, h.cnt]
  decide

/-- Inside a frame the channel that rises is the one whose on-time the counter reaches. -/
theorem onMatch_iff {s : State} (hs : onQueueInFrame s) (c : Channel) :
    (s.cnt.toNat + 1 = s.onCmp.toNat ∧ headChannel s.onCounter = some c) ↔ c.val * 8192 = s.cnt.toNat + 1 := by
  obtain ⟨hon, hcmp⟩ := hs
  have hwc := windowChannel_val s.cnt
  rw [hcmp, onTime_toNat]
  constructor
  · rintro ⟨hmatch, hhead⟩
    rcases head_cases s.onCounter with ⟨d, hd, hhd⟩ | ⟨-, hhd⟩
    · obtain rfl : d = c := Option.some.inj (hhd.symm.trans hhead)
      omega
    · rw [hhd] at hhead
      cases hhead
  · intro h
    have hc' : c.val = s.onCounter.val := by omega
    exact ⟨by omega, headChannel_of_lt hc'⟩

theorem onQueueInFrame_tick {s : State} (hs : onQueueInFrame s) (hc : s.cnt.toNat ≠ 32767) :
    onQueueInFrame (tick s) := by
  have hin := insideTick hc
  obtain ⟨hon, hcmp⟩ := hs
  have hlt := s.cnt.isLt
  have hwc := windowChannel_val s.cnt
  have hwc' := windowChannel_val (tick s).cnt
  have hnum := onTime_toNat s.onCounter
  rw [← hcmp] at hnum
  rw [hin.cnt] at hwc'
  rw [onQueueInFrame, hin.onCounter, hin.onCmp]
  split
  case isTrue h => exact ⟨by rw [advance_val]; omega, rfl⟩
  case isFalse h => exact ⟨by omega, hcmp⟩

/-! ### The stalled frame (R175(c), R250) -/

/-- Inside a frame that began with the stalled value `v` in `OFF_CMP`: every channel whose on-time has come is high. -/
structure StalledIn (v : CmpWord) (s : State) : Prop where
  onQueue : onQueueInFrame s
  offCmp : s.offCmp = v
  pin : ∀ c : Channel, c.val * 8192 ≤ s.cnt.toNat → s.pinOf c = true

theorem StalledIn.congr {v : CmpWord} {s t : State} (h : SameScheduler s t) (hs : StalledIn v s) : StalledIn v t :=
  ⟨onQueueInFrame_congr h hs.onQueue, h.offCmp.trans hs.offCmp, fun c hc => by
    rw [pinOf_congr h.pin]
    exact hs.pin c (h.cnt ▸ hc)⟩

theorem StalledIn.tick {v : CmpWord} (hv : 32768 ≤ v.toNat) {s : State} (hc : s.cnt.toNat ≠ 32767)
    (hs : StalledIn v s) : StalledIn v (tick s) := by
  have hin := insideTick hc
  have hlt := s.cnt.isLt
  have hno : ¬ s.cnt.toNat + 1 = s.offCmp.toNat := by rw [hs.offCmp]; omega
  refine ⟨onQueueInFrame_tick hs.onQueue hc, by rw [hin.offCmp, if_neg hno, hs.offCmp], fun c hcc => ?_⟩
  rw [hin.cnt] at hcc
  rw [hin.pin, if_neg fun h => hno h.1]
  simp only [onMatch_iff hs.onQueue]
  split
  case isTrue => rfl
  case isFalse h => exact hs.pin c (by omega)

theorem StalledIn.start {s u : State} (hcnt : s.cnt.toNat = 32767) (hon : s.onCmp ≠ 0) (hv : 32768 ≤ s.offCmp.toNat)
    (h : SameScheduler s u) : StalledIn s.offCmp (Machine.tick u) := by
  have hstart := startTick (s := u) (by rwa [h.cnt]) (by rwa [h.onCmp])
  have hnz : ¬ u.offCmp.toNat = 0 := by rw [h.offCmp]; omega
  refine ⟨onQueueInFrame_start hstart, by rw [hstart.offCmp, if_neg hnz, h.offCmp], fun c hc => ?_⟩
  rw [hstart.cnt] at hc
  have hc0 : c = 0 := Fin.ext (by simpa using hc)
  rw [hstart.pin, if_pos hc0, decide_eq_true hnz]

/-- Settles O54: at the last counter value every on-time has come. -/
theorem stalledFrameEndsWithAllPinsHigh : Obligations.StalledFrameEndsWithAllPinsHigh := by
  intro s l hcnt hon hstall hl hticks
  obtain ⟨t, ht, hs, hlast⟩ := run_frame (P := StalledIn s.offCmp) (Q := fun _ => True)
    (fun u v h hu => hu.congr h) (fun u hc _ hu => hu.tick hstall hc) hl (fun _ _ _ _ _ => trivial) hcnt hticks
    (fun u h _ => StalledIn.start hcnt hon hstall h)
  refine ⟨t, ht, fun c => hs.pin c ?_, hs.offCmp, hlast⟩
  have := c.isLt
  omega

/-! ### The abandoned fall (R175(b), R257) -/

/-- The falls among some traced actions. -/
def falls (es : List Edge) : List Edge := es.filter fun e => decide (e.kind = .fall)

theorem falls_append (es es' : List Edge) : falls (es ++ es') = falls es ++ falls es' := List.filter_append ..

theorem falls_rises {α : Type} (l : List α) (f : α → Edge) (h : ∀ a, (f a).kind = .rise) : falls (l.map f) = [] := by
  rw [falls, List.filter_eq_nil_iff]
  intro e he
  obtain ⟨a, -, rfl⟩ := List.mem_map.1 he
  simp [h a]

/-- Inside a frame that began in `s` with a stale value in `OFF_CMP`: until that value only channel 0's fall is ahead; from
then on it has fallen, no other fall has been traced, and `OFF_CMP` holds a value already passed. -/
structure StaleIn (s u : State) : Prop where
  onQueue : onQueueInFrame u
  frame : u.frame = s.frame + 1
  pin : ∀ c : Channel, c ≠ 0 → c.val * 8192 ≤ u.cnt.toNat → u.pinOf c = true
  off : (u.cnt.toNat < s.offCmp.toNat ∧ u.offCounter = 0 ∧ u.offCmp = s.offCmp ∧
      ∃ es, u.trace = s.trace ++ es ∧ falls es = []) ∨
    (s.offCmp.toNat ≤ u.cnt.toNat ∧ u.offCounter = 1 ∧ u.offCmp.toNat ≤ s.offCmp.toNat ∧ u.pinOf 0 = false ∧
      ∃ es, u.trace = s.trace ++ es ∧ falls es = [⟨s.frame + 1, s.offCmp.setWidth 15, .fall, 0⟩])

theorem StaleIn.congr {s u v : State} (h : SameScheduler u v) (hu : StaleIn s u) : StaleIn s v := by
  obtain ⟨hq, hframe, hpin, hoff⟩ := hu
  refine ⟨onQueueInFrame_congr h hq, h.frame.trans hframe, fun c hc hle => ?_, ?_⟩
  · rw [pinOf_congr h.pin]
    exact hpin c hc (h.cnt ▸ hle)
  · rwa [h.cnt, h.offCounter, h.offCmp, h.trace, pinOf_congr h.pin]

/-- A counter value equal to a compare value as numbers is its low 15 bits. -/
theorem eq_setWidth_of_toNat {τ : Count} {v : CmpWord} (h : τ.toNat = v.toNat) : τ = v.setWidth 15 := by
  have := τ.isLt
  apply BitVec.eq_of_toNat_eq
  rw [BitVec.toNat_setWidth]
  omega

theorem StaleIn.tick {s u : State} (hc : u.cnt.toNat ≠ 32767) (hle : (u.offTimeOf 1).toNat ≤ s.offCmp.toNat)
    (hu : StaleIn s u) : StaleIn s (tick u) := by
  have hin := insideTick hc
  obtain ⟨hq, hframe, hpin, hoff⟩ := hu
  have hrises : falls (if u.cnt.toNat + 1 = u.onCmp.toNat
      then (headChannel u.onCounter).toList.map fun c => ⟨u.frame, nextCount u.cnt, .rise, c⟩ else []) = [] := by
    split
    · exact falls_rises _ _ fun _ => rfl
    · rfl
  have hrise (hno : ∀ c : Channel, c ≠ 0 → ¬ (u.cnt.toNat + 1 = u.offCmp.toNat ∧ headChannel u.offCounter = some c))
      (c : Channel) (hc0 : c ≠ 0) (hcc : c.val * 8192 ≤ (Machine.tick u).cnt.toNat) :
      (Machine.tick u).pinOf c = true := by
    rw [hin.cnt] at hcc
    rw [hin.pin, if_neg (hno c hc0)]
    simp only [onMatch_iff hq]
    split
    case isTrue => rfl
    case isFalse h => exact hpin c hc0 (by omega)
  have hkeep (hno : ¬ u.cnt.toNat + 1 = u.offCmp.toNat) {es : List Edge} (hes : u.trace = s.trace ++ es) :
      ∃ es', (Machine.tick u).trace = s.trace ++ es' ∧ falls es' = falls es := by
    have htrace := hin.trace
    rw [if_neg hno, List.append_nil, hes, List.append_assoc] at htrace
    exact ⟨_, htrace, by rw [falls_append, hrises, List.append_nil]⟩
  rcases hoff with ⟨hlt, hoffc, hcmp, es, hes, hfalls⟩ | ⟨hge, hoffc, hcmp, hpin0, es, hes, hfalls⟩
  case inl =>
    have hhead : headChannel u.offCounter = some 0 := by rw [hoffc]; rfl
    have hno (c : Channel) (hc0 : c ≠ 0) (h : u.cnt.toNat + 1 = u.offCmp.toNat ∧ headChannel u.offCounter = some c) :
        False := hc0 (Option.some.inj (hhead.symm.trans h.2)).symm
    refine ⟨onQueueInFrame_tick hq hc, hin.frame.trans hframe, hrise hno, ?_⟩
    by_cases hoff : u.cnt.toNat + 1 = u.offCmp.toNat
    case pos =>
      have hnow : s.offCmp.toNat = u.cnt.toNat + 1 := by rw [hoff, hcmp]
      have hτ : nextCount u.cnt = s.offCmp.setWidth 15 :=
        eq_setWidth_of_toNat ((nextCount_of_inside hc).trans hnow.symm)
      have htrace := hin.trace
      rw [if_pos hoff, hhead, hes, List.append_assoc] at htrace
      refine .inr ⟨by rw [hin.cnt, hnow], by rw [hin.offCounter, if_pos hoff, hoffc]; rfl, ?_, ?_, _, htrace, ?_⟩
      · rw [hin.offCmp, if_pos hoff, hoffc]
        exact hle
      · rw [hin.pin, if_pos ⟨hoff, hhead⟩]
      · rw [falls_append, falls_append, hfalls, hrises, hτ, hframe]
        rfl
    case neg =>
      obtain ⟨es', hes', hfalls'⟩ := hkeep hoff hes
      refine .inl ⟨by rw [hin.cnt]; rw [hcmp] at hoff; omega, by rw [hin.offCounter, if_neg hoff, hoffc],
        by rw [hin.offCmp, if_neg hoff, hcmp], es', hes', hfalls'.trans hfalls⟩
  case inr =>
    have hoff : ¬ u.cnt.toNat + 1 = u.offCmp.toNat := by omega
    obtain ⟨es', hes', hfalls'⟩ := hkeep hoff hes
    refine ⟨onQueueInFrame_tick hq hc, hin.frame.trans hframe, hrise fun c _ h => hoff h.1, .inr
      ⟨by rw [hin.cnt]; omega, by rw [hin.offCounter, if_neg hoff, hoffc], by rwa [hin.offCmp, if_neg hoff], ?_, es', hes',
        hfalls'.trans hfalls⟩⟩
    rw [hin.pin, if_neg fun h => hoff h.1]
    simp only [onMatch_iff hq]
    rw [if_neg (by simp), hpin0]

theorem StaleIn.start {s u : State} (hcnt : s.cnt.toNat = 32767) (hon : s.onCmp ≠ 0) (h : SameScheduler s u)
    (hle : (u.offTimeOf 1).toNat ≤ s.offCmp.toNat) : StaleIn s (Machine.tick u) := by
  have hstart := startTick (s := u) (by rwa [h.cnt]) (by rwa [h.onCmp])
  have hcnt0 : (Machine.tick u).cnt.toNat = 0 := by rw [hstart.cnt]; rfl
  have htrace := hstart.trace
  rw [h.trace, h.frame] at htrace
  refine ⟨onQueueInFrame_start hstart, by rw [hstart.frame, h.frame], fun c hc0 hc => ?_, ?_⟩
  · have : c.val ≠ 0 := Fin.val_ne_of_ne hc0
    omega
  · by_cases hz : u.offCmp.toNat = 0
    · have hz' : s.offCmp.toNat = 0 := by rwa [← h.offCmp]
      have hzero : (0 : Count) = s.offCmp.setWidth 15 := eq_setWidth_of_toNat hz'.symm
      rw [if_pos hz] at htrace
      refine .inr ⟨by omega, by rw [hstart.offCounter, if_pos hz], by rw [hstart.offCmp, if_pos hz]; exact hle, ?_, _, htrace,
        by rw [← hzero]; rfl⟩
      rw [hstart.pin, if_pos rfl, decide_eq_false (not_not_intro hz)]
    · rw [if_neg hz] at htrace
      rw [h.offCmp] at hz
      exact .inl ⟨by omega, by rw [hstart.offCounter, h.offCmp, if_neg hz], by rw [hstart.offCmp, h.offCmp, if_neg hz], _, htrace,
        rfl⟩

/-- Settles O52: at the last counter value the stale value has been passed and every on-time has come. -/
theorem abandonedFallsPersistFrameAfterFrame : Obligations.AbandonedFallsPersistFrameAfterFrame := by
  intro s l hcnt hon hstale hl hticks hle
  obtain ⟨t, ht, hs, hlast⟩ := run_frame (P := StaleIn s) (Q := fun u => (u.offTimeOf 1).toNat ≤ s.offCmp.toNat)
    (fun u v h hu => hu.congr h) (fun u hc hQ hu => hu.tick hc hQ) hl hle hcnt hticks
    (fun u h hQ => StaleIn.start hcnt hon h hQ)
  obtain ⟨⟨honc, honcmp⟩, hframe, hpin, ⟨hlt, -⟩ | ⟨hge, hoffc, hcmp, hpin0, es, hes, hfalls⟩⟩ := hs
  · omega
  · refine ⟨t, ht, hlast, ?_, hoffc, hcmp, ?_, es, hes, hfalls⟩
    · intro h0
      have hnum := onTime_toNat t.onCounter
      rw [← honcmp, h0, honc] at hnum
      have : (0 : CmpWord).toNat = 0 := rfl
      omega
    · have hhigh (c : Channel) (hc : c ≠ 0) : t.pinOf c = true := hpin c hc (by have := c.isLt; omega)
      apply Vector.ext
      intro n hn
      match n, hn with
      | 0, _ => exact hpin0
      | 1, _ => exact hhigh 1 (by decide)
      | 2, _ => exact hhigh 2 (by decide)
      | 3, _ => exact hhigh 3 (by decide)

end Sys2Proof.Machine
end

section
/-! PROOFS. When a commit takes effect (spec/20_memory.md section 9; spec/41_update_protocol.md, "Laws"): with no `POLL` in
the second frame at the latest. -/

namespace Sys2Proof.Machine

/-- A list can be cut after any number of its ticks. -/
theorem exists_split_of_count {l : List Instr} {n : Nat} (h : n ≤ l.count .tick) :
    ∃ l₁ l₂, l = l₁ ++ l₂ ∧ l₁.count .tick = n := by
  induction l generalizing n with
  | nil => exact ⟨[], [], rfl, (Nat.le_zero.1 h).symm⟩
  | cons i l ih =>
    cases n with
    | zero => exact ⟨[], i :: l, rfl, rfl⟩
    | succ n =>
      by_cases hi : i = .tick
      · subst hi
        rw [List.count_cons_self] at h
        obtain ⟨l₁, l₂, rfl, hn⟩ := ih (Nat.le_of_succ_le_succ h)
        exact ⟨.tick :: l₁, l₂, rfl, by rw [List.count_cons_self, hn]⟩
      · rw [List.count_cons_of_ne hi] at h
        obtain ⟨l₁, l₂, rfl, hn⟩ := ih h
        exact ⟨i :: l₁, l₂, rfl, by rw [List.count_cons_of_ne hi, hn]⟩

theorem offTime_of_exec {i : Instr} {s t : State} (hi : freeRunning i = true) (hne : i ≠ .poll)
    (h : exec i s = .next t) : t.offTime = s.offTime := by
  cases i with
  | tick => cases h; exact tick_offTime s
  | wrH a b => cases h; rfl
  | wrL a b => cases h; rfl
  | rd a => cases h; rfl
  | poll => exact absurd rfl hne
  | evtFs => cases hi
  | evtOn => cases hi
  | evtOff => cases hi
  | reset => cases hi

section
variable {l : List Instr} (hl : ∀ i ∈ l, freeRunning i = true ∧ i ≠ .poll)
include hl

/-- Without a `POLL` the off-times stay. -/
theorem offTime_of_run {s t : State} (h : runInstrs l s = .next t) : t.offTime = s.offTime :=
  runInstrs_keeps (P := fun u => u.offTime = s.offTime)
    (fun i hi _ _ huv hu => (offTime_of_exec (hl i hi).1 (hl i hi).2 huv).trans hu) h rfl

/-- Without a `POLL` no operation is out of window. -/
theorem inContractRun_of_no_poll (s : State) : inContractRun l s := by
  induction l generalizing s with
  | nil => trivial
  | cons i l ih =>
    obtain ⟨⟨hfree, hne⟩, hrest⟩ := List.forall_mem_cons.1 hl
    exact ⟨⟨hfree, fun h => hne h.1⟩, fun t _ => ih hrest t⟩

/-- A whole frame without a `POLL`: channel 0 falls at the latched time and the others at the committed ones, and channel
0's committed time is latched for the next frame. -/
theorem frame_without_poll {s : State} (hb : atBoundary s) (hwin : windowOk s) (hcnt : l.count .tick = 32768) :
    ∃ t, runInstrs l s = .next t ∧ atBoundary t ∧ t.offTime = s.offTime ∧ t.frame = s.frame + 1 ∧
      t.offCmp = s.offTimeOf 0 ∧ t.trace = s.trace ++
        frameEdges (s.frame + 1) fun c => (if c = 0 then s.offCmp else s.offTimeOf c).setWidth 15 := by
  obtain ⟨t, w, h⟩ := wholeFrame_exists l s hb hwin (inContractRun_of_no_poll hl s) hcnt
  have hconst {k : Channel} {τ : Count} {u : State} (hu : fallTick l s k τ u) (c : Channel) :
      u.offTimeOf c = s.offTimeOf c := by
    obtain ⟨l₁, l₂, hl₁, hrun, -⟩ := hu
    exact offTimeOf_congr (offTime_of_run (fun i hi => hl i (by rw [hl₁]; exact List.mem_append_left _ hi)) hrun) c
  have hfall {τ : Count} {v : CmpWord} (hτ : zext16 τ = v) : τ = v.setWidth 15 :=
    eq_setWidth_of_toNat (by rw [← hτ, zext16_toNat])
  have hw : w = fun c => (if c = 0 then s.offCmp else s.offTimeOf c).setWidth 15 := by
    funext c
    by_cases hc : c = 0
    · rw [if_pos hc, hc, hfall (h.falls.latched 0 rfl)]
    · have hc' : c.val ≠ 0 := Fin.val_ne_of_ne hc
      obtain ⟨u, hu, hv⟩ := h.falls.chain ⟨c.val - 1, by omega⟩ c (by simp only; omega) (Nat.zero_le _)
      rw [if_neg hc, hfall hv, hconst hu]
  refine ⟨t, h.run, h.ends.1, offTime_of_run hl h.run, h.frame, ?_, hw ▸ h.trace⟩
  obtain ⟨h04, -⟩ | ⟨u, hu, hv⟩ := h.falls.reload
  · cases h04
  · rw [hv, hconst hu]
end

/-- Two frames without a `POLL`. -/
theorem two_frames_without_poll {l : List Instr} (hl : ∀ i ∈ l, freeRunning i = true ∧ i ≠ .poll) {s : State}
    (hb : atBoundary s) (hwin : windowOk s) (hcnt : l.count .tick = 65536) :
    ∃ t, runInstrs l s = .next t ∧ atBoundary t ∧ t.offTime = s.offTime ∧ t.trace = s.trace ++
      frameEdges (s.frame + 1) (fun c => ((if c = 0 then s.offCmp else s.offTimeOf c).setWidth 15 : Count)) ++
      frameEdges (s.frame + 2) (fun c => ((s.offTimeOf c).setWidth 15 : Count)) := by
  obtain ⟨l₁, l₂, rfl, h₁⟩ := exists_split_of_count (l := l) (n := 32768) (by omega)
  rw [List.count_append] at hcnt
  obtain ⟨u, hu, hbu, hou, hfu, hcu, htu⟩ :=
    frame_without_poll (fun i hi => hl i (List.mem_append_left _ hi)) hb hwin h₁
  obtain ⟨t, ht, hbt, hot, -, -, htt⟩ := frame_without_poll
    (fun i hi => hl i (List.mem_append_right _ hi)) hbu (windowOk_congr hou hwin) (by omega)
  have hw : (fun c => ((if c = 0 then u.offCmp else u.offTimeOf c).setWidth 15 : Count)) =
      fun c => (s.offTimeOf c).setWidth 15 := by
    funext c
    by_cases hc : c = 0
    · rw [if_pos hc, hc, hcu]
    · rw [if_neg hc, offTimeOf_congr hou]
  refine ⟨t, by rw [runInstrs_append_of_next hu, ht], hbt, hot.trans hou, ?_⟩
  rw [htt, htu, hfu, hw, Int.add_assoc]
  rfl

end Sys2Proof.Machine
end

section
/-! PROOFS. The committed value eventually governs the pin (spec/60_exceptions.md section 9). Every tick that brings the
counter to channel `c`'s committed off-time `v` lowers the channel, from the second such tick on. -/

namespace Sys2Proof.Machine

/-- The next fall of channel `c` is at `v`: if the channel is next, `v` is latched, and in its window before `v` it is
next. -/
structure Settled (c : Channel) (v : CmpWord) (s : State) : Prop where
  latched : wrapHead s.offCounter = c → s.offCmp = v
  ahead : windowChannel s.cnt = c → s.cnt.toNat < v.toNat → s.offCounter.val = c.val

/-- The channel is settled, or its window is past `v` and the channel will be settled when the window ends. -/
def settling (c : Channel) (v : CmpWord) (s : State) : Prop :=
  Settled c v s ∨ (windowChannel s.cnt = c ∧ v.toNat ≤ s.cnt.toNat)

theorem Settled.congr {c : Channel} {v : CmpWord} {s t : State} (h : SameScheduler s t) (hs : Settled c v s) :
    Settled c v t := by
  refine ⟨?_, ?_⟩
  · rw [h.offCounter, h.offCmp]; exact hs.latched
  · rw [h.cnt, h.offCounter]; exact hs.ahead

theorem settling_congr {c : Channel} {v : CmpWord} {s t : State} (h : SameScheduler s t) (hs : settling c v s) :
    settling c v t := by
  refine hs.imp (Settled.congr h) ?_
  rw [h.cnt]
  exact id

/-- Under the frame invariant the state before a tick is at a boundary, or inside the frame before its last value. -/
theorem frameInv_cases {s : State} (h : frameInv s) : atBoundary s ∨ (inFrame s ∧ s.cnt.toNat ≠ 32767) := by
  obtain ⟨-, hb | hin⟩ := h
  · exact .inl hb
  · by_cases hlast : s.cnt.toNat = 32767
    · exact .inl (atBoundary_of_inFrame_last hin hlast)
    · exact .inr ⟨hin, hlast⟩

theorem wrapHead_of_atBoundary {s : State} (h : atBoundary s) : wrapHead s.offCounter = 0 := by
  obtain ⟨-, -, hoff, -⟩ := h
  rcases hoff with h | h <;> rw [h] <;> rfl

theorem wrapHead_of_channel {i : QueueHead} {c : Channel} (h : i.val = c.val) : wrapHead i = c :=
  Fin.ext (by rw [wrapHead_val, h]; exact Nat.mod_eq_of_lt c.isLt)

theorem val_of_headChannel {i : QueueHead} {c : Channel} (h : headChannel i = some c) : i.val = c.val := by
  rcases head_cases i with ⟨d, hd, hi⟩ | ⟨-, hi⟩
  · rw [← hd, Option.some.inj (hi.symm.trans h)]
  · rw [hi] at h
    cases h

/-- A tick that enters a window finds the off queue at the window's channel. -/
theorem offCounter_of_window_entry {s : State} (hs : inFrame s) (hc : s.cnt.toNat ≠ 32767)
    (hne : windowChannel (nextCount s.cnt) ≠ windowChannel s.cnt) :
    s.offCounter.val = (windowChannel (nextCount s.cnt)).val := by
  have hwc := windowChannel_val s.cnt
  have hwc' := windowChannel_val (nextCount s.cnt)
  have hne' : (windowChannel (nextCount s.cnt)).val ≠ (windowChannel s.cnt).val := Fin.val_ne_of_ne hne
  rw [nextCount_of_inside hc] at hwc'
  have hnum := onTime_toNat s.onCounter
  have ⟨hon, hcmp, _, _⟩ := hs
  obtain ⟨k, hk, hk', -⟩ := heads_of_onMatch hs hc (by rw [hcmp, hnum]; omega)
  omega

theorem Settled.tick {c : Channel} {v : CmpWord} {s : State} (hs : frameInv s) (hv : s.offTimeOf c = v)
    (h : Settled c v s) : Settled c v (tick s) := by
  rcases frameInv_cases hs with hb | ⟨hin, hlast⟩
  case inl =>
    have hwrap := wrapHead_of_atBoundary hb
    obtain ⟨hcnt, hon, -, -, -⟩ := hb
    have hstart := startTick hcnt hon
    refine ⟨fun hc => ?_, fun hc hlt => ?_⟩
    · rw [hstart.offCounter] at hc
      rw [hstart.offCmp]
      split at hc
      case isTrue hz => rw [if_pos hz, ← hv, ← hc]; rfl
      case isFalse hz => rw [if_neg hz]; exact h.latched (hwrap.trans hc)
    · rw [hstart.cnt] at hc hlt
      have hc0 : (0 : Channel) = c := hc
      have hnz : ¬ s.offCmp.toNat = 0 := by
        rw [h.latched (hwrap.trans hc0)]
        exact Nat.ne_of_gt hlt
      rw [hstart.offCounter, if_neg hnz, ← hc0]
      rfl
  case inr =>
    have htick := insideTick hlast
    refine ⟨fun hc => ?_, fun hc hlt => ?_⟩
    · rw [htick.offCounter] at hc
      rw [htick.offCmp]
      split at hc
      case isTrue hz => rw [if_pos hz, hc, hv]
      case isFalse hz => rw [if_neg hz]; exact h.latched hc
    · rw [tick_cnt] at hc
      rw [htick.cnt] at hlt
      have hoff : s.offCounter.val = c.val := by
        by_cases hsame : windowChannel s.cnt = c
        · exact h.ahead hsame (by omega)
        · rw [offCounter_of_window_entry hin hlast (by rw [hc]; exact fun e => hsame e.symm), hc]
      have hno : ¬ s.cnt.toNat + 1 = s.offCmp.toNat := by
        rw [h.latched (wrapHead_of_channel hoff)]
        omega
      rw [htick.offCounter, if_neg hno, hoff]

/-- Past `v` the channel stays settling, and leaves its window settled: the off queue is then at the channels after it. -/
theorem settling_tick {c : Channel} {v : CmpWord} {s : State} (hs : frameInv s) (hv : s.offTimeOf c = v)
    (h : settling c v s) : settling c v (tick s) := by
  rcases h with h | ⟨hc, hle⟩
  · exact .inl (h.tick hs hv)
  · rcases frameInv_cases hs with ⟨hcnt, hon, -, -, -⟩ | ⟨hin, hlast⟩
    case inl =>
      have hstart := startTick hcnt hon
      have hwc := windowChannel_val s.cnt
      have h3 : c = 3 := Fin.ext (by rw [← hc, hwc, hcnt]; rfl)
      refine .inl ⟨fun hw => ?_, fun hw _ => ?_⟩
      · rw [hstart.offCounter, h3] at hw
        split at hw <;> exact absurd hw (by decide)
      · rw [hstart.cnt, h3] at hw
        exact absurd hw (by decide)
    case inr =>
      have htick := insideTick hlast
      by_cases hsame : windowChannel (nextCount s.cnt) = c
      · exact .inr ⟨by rw [tick_cnt, hsame], by rw [htick.cnt]; omega⟩
      · have hentry := offCounter_of_window_entry hin hlast (by rw [hc]; exact hsame)
        have hwc := windowChannel_val s.cnt
        have hwc' := windowChannel_val (nextCount s.cnt)
        have hlt := (windowChannel (nextCount s.cnt)).isLt
        rw [nextCount_of_inside hlast] at hwc'
        have hne : (windowChannel (nextCount s.cnt)).val ≠ c.val := Fin.val_ne_of_ne hsame
        have hcv : (windowChannel s.cnt).val = c.val := congrArg Fin.val hc
        refine .inl ⟨fun hw => ?_, fun hw _ => ?_⟩
        · have hw' := congrArg Fin.val hw
          rw [htick.offCounter, wrapHead_val] at hw'
          split at hw'
          · rw [advance_val] at hw'; omega
          · omega
        · rw [tick_cnt] at hw
          exact absurd hw hsame

/-- The tick that reaches `v` finds the channel settled and about to fall. -/
theorem aboutToFall_of_settling {c : Channel} {v : CmpWord} {s : State} (hs : frameInv s) (hv : inWindow c v)
    (hn : (nextCount s.cnt).toNat = v.toNat) (h : settling c v s) : Settled c v s ∧ aboutToFall s c := by
  rw [inWindow_iff] at hv
  have hwc := windowChannel_val s.cnt
  have hcnt := nextCount_toNat s.cnt
  have hlt := s.cnt.isLt
  have hset : Settled c v s := by
    rcases h with h | ⟨hc, hle⟩
    · exact h
    · have hcv : (windowChannel s.cnt).val = c.val := congrArg Fin.val hc
      omega
  have hwrap : wrapHead s.offCounter = c := by
    rcases frameInv_cases hs with hb | ⟨hin, hlast⟩
    · rw [wrapHead_of_atBoundary hb]
      have h1 : s.cnt.toNat = 32767 := hb.1
      exact Fin.ext (show 0 = c.val by omega)
    · have hn' := nextCount_of_inside hlast
      have hwc' := windowChannel_val (nextCount s.cnt)
      have hcv : windowChannel (nextCount s.cnt) = c := Fin.ext (by omega)
      by_cases hsame : windowChannel s.cnt = c
      · exact wrapHead_of_channel (hset.ahead hsame (by omega))
      · exact wrapHead_of_channel ((offCounter_of_window_entry hin hlast (by rw [hcv]; exact fun e => hsame e.symm)).trans
          (congrArg Fin.val hcv))
  exact ⟨hset, BitVec.eq_of_toNat_eq (by rw [zext16_toNat, hn, hset.latched hwrap]), hwrap⟩

/-- A settled channel falls at `v` and at no other time. -/
theorem fall_time_of_settled {c : Channel} {v : CmpWord} {s : State} (hs : frameInv s) (h : Settled c v s)
    {es : List Edge} (hes : (tick s).trace = s.trace ++ es) {f : Int} {τ : Count}
    (he : (⟨f, τ, .fall, c⟩ : Edge) ∈ es) : τ = v.setWidth 15 := by
  rcases frameInv_cases hs with hb | ⟨hin, hlast⟩
  case inl =>
    have hwrap := wrapHead_of_atBoundary hb
    obtain ⟨hcnt, hon, -, -, -⟩ := hb
    have htrace := (startTick hcnt hon).trace
    rw [hes] at htrace
    rw [List.append_cancel_left htrace] at he
    by_cases hz : s.offCmp.toNat = 0
    · obtain ⟨-, rfl, hc⟩ : f = s.frame + 1 ∧ τ = 0 ∧ c = 0 := by simpa [hz] using he
      exact eq_setWidth_of_toNat (by rw [← h.latched (hwrap.trans hc.symm), hz]; rfl)
    · simp [hz] at he
  case inr =>
    have htrace := (insideTick hlast).trace
    rw [hes] at htrace
    rw [List.append_cancel_left htrace] at he
    by_cases hoff : s.cnt.toNat + 1 = s.offCmp.toNat
    · obtain ⟨-, rfl, hhead⟩ : f = s.frame ∧ τ = nextCount s.cnt ∧ headChannel s.offCounter = some c := by
        rw [if_pos hoff, List.mem_append] at he
        rcases he with he | he
        · split at he <;> simp at he
        · obtain ⟨d, hd, hedge⟩ := List.mem_map.1 he
          cases hedge
          exact ⟨rfl, rfl, Option.mem_toList.1 hd⟩
      have hc := wrapHead_of_channel (val_of_headChannel hhead)
      exact eq_setWidth_of_toNat (by rw [nextCount_of_inside hlast, hoff, h.latched hc])
    · rw [if_neg hoff, List.append_nil] at he
      split at he <;> simp at he

/-! ### Schedules -/

/-- How many of the first operations of a schedule are ticks. -/
theorem count_firstOps (σ : Schedule) (n : Nat) :
    (firstOps σ n).count .tick = Nat.count (fun k => σ k = .tick) n := by
  induction n with
  | zero => rfl
  | succ n ih =>
    rw [firstOps_succ, List.count_append, ih, Nat.count_succ, List.count_singleton]
    simp

/-- With `TICK` weakly fair there is a tick with any number of ticks before it. -/
theorem exists_tick_with_count {σ : Schedule} (hfair : weaklyFair .tick σ) (j : Nat) :
    ∃ n, σ n = .tick ∧ (firstOps σ n).count .tick = j := by
  have hinf : {k | σ k = .tick}.Infinite := Nat.frequently_atTop_iff_infinite.1
    (Filter.frequently_atTop.2 hfair)
  refine ⟨Nat.nth (fun k => σ k = .tick) j, Nat.nth_mem_of_infinite hinf j, ?_⟩
  rw [count_firstOps, Nat.count_nth_of_infinite hinf]

theorem count_firstOps_le (σ : Schedule) (n : Nat) : (firstOps σ n).count .tick ≤ n := by
  rw [count_firstOps]
  exact Nat.count_le _

theorem count_firstOps_mono (σ : Schedule) {m n : Nat} (h : m ≤ n) :
    (firstOps σ m).count .tick ≤ (firstOps σ n).count .tick := by
  rw [count_firstOps, count_firstOps]
  exact Nat.count_monotone _ h

/-- The counter counts the ticks modulo `FRAME_PERIOD`. -/
theorem cnt_of_run {l : List Instr} {s t : State} (hl : ∀ i ∈ l, freeRunning i = true) (h : runInstrs l s = .next t) :
    t.cnt.toNat = (s.cnt.toNat + l.count .tick) % 32768 := by
  induction l generalizing s with
  | nil => cases h; exact (Nat.mod_eq_of_lt t.cnt.isLt).symm
  | cons i l ih =>
    obtain ⟨hi, hrest⟩ := List.forall_mem_cons.1 hl
    obtain ⟨u, hu⟩ := exec_completes i s
    rw [runInstrs_cons_of_next hu] at h
    rw [ih hrest h]
    by_cases htick : i = .tick
    · subst htick
      cases hu
      rw [List.count_cons_self, tick_cnt, nextCount_toNat]
      omega
    · rw [List.count_cons_of_ne htick, (sameScheduler_of_freeRunning hi htick hu).cnt]

section
variable {σ : Schedule} {s : State} {c : Channel} {v : CmpWord} (hinv : frameInv s)
  (hσ : ∀ n u, runFor σ n s = .next u → inContract (σ n) u ∧ u.offTimeOf c = v)
include hσ

theorem cnt_of_runFor {n : Nat} {u : State} (hu : runFor σ n s = .next u) :
    u.cnt.toNat = (s.cnt.toNat + (firstOps σ n).count .tick) % 32768 := by
  refine cnt_of_run (fun i hi => ?_) hu
  obtain ⟨k, -, rfl⟩ := List.mem_map.1 hi
  obtain ⟨t, ht⟩ := runFor_completes σ k s
  exact (hσ k t ht).1.1

include hinv

theorem frameInv_of_runFor {n : Nat} {u : State} (hu : runFor σ n s = .next u) : frameInv u := by
  induction n generalizing u with
  | zero => cases hu; exact hinv
  | succ n ih =>
    obtain ⟨t, ht⟩ := runFor_completes σ n s
    rw [runFor_succ_of_next ht] at hu
    exact frameInv_exec (ih ht) (hσ n t ht).1 hu

/-- What no bus operation or `POLL` can change and every tick keeps, once it holds it holds for ever. -/
theorem runFor_keeps {P : State → Prop} (hother : ∀ u w, SameScheduler u w → P u → P w)
    (htick : ∀ u, frameInv u → u.offTimeOf c = v → P u → P (tick u)) {n m : Nat} (hnm : n ≤ m) {u w : State}
    (hu : runFor σ n s = .next u) (hw : runFor σ m s = .next w) (h : P u) : P w := by
  induction m, hnm using Nat.le_induction generalizing w with
  | base =>
    rw [hu] at hw
    cases hw
    exact h
  | succ m hm ih =>
    obtain ⟨t, ht⟩ := runFor_completes σ m s
    obtain ⟨⟨hfree, -⟩, hv⟩ := hσ m t ht
    rw [runFor_succ_of_next ht] at hw
    by_cases hi : σ m = .tick
    · rw [hi] at hw
      cases hw
      exact htick t (frameInv_of_runFor hinv hσ ht) hv (ih ht)
    · exact hother t w (sameScheduler_of_freeRunning hfree hi hw) (ih ht)

/-- A settled channel falls at no time but `v` for ever. -/
theorem fallsAt_of_settled {n m : Nat} (hnm : n ≤ m) {u : State} (hu : runFor σ n s = .next u) (h : Settled c v u)
    {τ : Count} (hτ : fallsAt σ s m c τ) : τ = v.setWidth 15 := by
  obtain ⟨w, x, es, f, hw, hx, hes, he⟩ := hτ
  have hset := runFor_keeps hinv hσ (fun _ _ => Settled.congr) (fun _ hu hv => Settled.tick hu hv) hnm hu hw h
  by_cases hi : σ m = .tick
  · rw [hi] at hx
    cases hx
    exact fall_time_of_settled (frameInv_of_runFor hinv hσ hw) hset hes he
  · have hsame := sameScheduler_of_freeRunning (hσ m w hw).1.1 hi hx
    rw [hsame.trace] at hes
    rw [List.append_right_eq_self.1 hes.symm] at he
    cases he

/-- A tick that brings the counter to `v` lowers a settling channel, and the channel is settled. -/
theorem fallsAt_of_settling (hv : inWindow c v) {n : Nat} {u : State} (hu : runFor σ n s = .next u)
    (hi : σ n = .tick) (hn : (nextCount u.cnt).toNat = v.toNat) (h : settling c v u) :
    Settled c v u ∧ fallsAt σ s n c (v.setWidth 15) := by
  have hframe := frameInv_of_runFor hinv hσ hu
  obtain ⟨hset, hfall⟩ := aboutToFall_of_settling hframe hv hn h
  obtain ⟨es, f, hes, he⟩ := fall_traced_by_tick hframe hfall
  rw [eq_setWidth_of_toNat hn] at he
  exact ⟨hset, u, tick u, es, f, hu, by rw [hi, exec_tick], hes, he⟩

end

/-- Settles O51: with no `POLL` each frame's falls are those latched and committed; in general the first tick that reaches
`v` leaves the channel settling, and the one a frame later lowers it at `v`. -/
theorem committedOffTimesGovernTheSecondFrame : Obligations.CommittedOffTimesGovernTheSecondFrame := by
  refine ⟨fun s l hb hwin hl hcnt => two_frames_without_poll hl hb hwin hcnt, fun σ s c v hinv hfair hσ => ?_⟩
  have hwin : inWindow c v := (hσ 0 s rfl).2 ▸ hinv.1 c
  have hvlt : v.toNat < 32768 := by
    have := c.isLt
    rw [inWindow_iff] at hwin
    omega
  have hslt := s.cnt.isLt
  obtain ⟨d, hd, hreach⟩ : ∃ d, d < 32768 ∧ (s.cnt.toNat + d + 1) % 32768 = v.toNat :=
    ⟨(v.toNat + 32767 - s.cnt.toNat) % 32768, Nat.mod_lt _ (by decide), by omega⟩
  have tickAt (q : Nat) : ∃ n u, σ n = .tick ∧ (firstOps σ n).count .tick = d + 32768 * q ∧ runFor σ n s = .next u ∧
      (nextCount u.cnt).toNat = v.toNat := by
    obtain ⟨n, hn, hcount⟩ := exists_tick_with_count hfair (d + 32768 * q)
    obtain ⟨u, hu⟩ := runFor_completes σ n s
    refine ⟨n, u, hn, hcount, hu, ?_⟩
    rw [nextCount_toNat, cnt_of_runFor hσ hu, hcount]
    omega
  obtain ⟨n₁, u₁, hn₁, hcount₁, hu₁, hnext₁⟩ := tickAt 0
  have hpast : settling c v (tick u₁) := by
    refine .inr ⟨Fin.ext ?_, ?_⟩
    · rw [tick_cnt, windowChannel_val, hnext₁]
      rw [inWindow_iff] at hwin
      omega
    · rw [tick_cnt, hnext₁]
  have hafter₁ : runFor σ (n₁ + 1) s = .next (tick u₁) := by rw [runFor_succ_of_next hu₁, hn₁, exec_tick]
  have later {q n : Nat} {u : State} (hq : 0 < q) (hn : σ n = .tick)
      (hcount : (firstOps σ n).count .tick = d + 32768 * q) (hu : runFor σ n s = .next u)
      (hnext : (nextCount u.cnt).toNat = v.toNat) : Settled c v u ∧ fallsAt σ s n c (v.setWidth 15) := by
    have hlt : n₁ < n := by
      by_contra hle
      have := count_firstOps_mono σ (Nat.le_of_not_lt hle)
      omega
    have hset := runFor_keeps hinv hσ (fun _ _ => settling_congr) (fun _ => settling_tick) hlt hafter₁ hu hpast
    exact fallsAt_of_settling hinv hσ hwin hu hn hnext hset
  obtain ⟨n₂, u₂, hn₂, hcount₂, hu₂, hnext₂⟩ := tickAt 1
  obtain ⟨hset₂, hfall₂⟩ := later (by decide) hn₂ hcount₂ hu₂ hnext₂
  refine ⟨n₂, ?_, hfall₂, fun m t hm ht => fallsAt_of_settled hinv hσ hm hu₂ hset₂ ht, fun m => ?_⟩
  · rw [firstOps_succ, List.count_append, hcount₂, hn₂]
    have : [Instr.tick].count .tick = 1 := rfl
    omega
  · obtain ⟨n, u, hn, hcount, hu, hnext⟩ := tickAt (m + 1)
    have hle := count_firstOps_le σ n
    exact ⟨n, by omega, (later (Nat.succ_pos m) hn hcount hu hnext).2⟩

end Sys2Proof.Machine
end
